-- ==== Sys2Proof/Word.lean ====
section
/-! DEFINITION. The two data widths of the sf16 and the zero-extension between them (00_scope.md R9). -/

namespace Sys2Proof

/-- A 16-bit value: a register, an opcode word, a word address of the instruction space or a byte
address of the data space (R6, R9). -/
abbrev Word := BitVec 16

/-- One memory byte of the data space (R72). -/
abbrev Byte := BitVec 8

/-- `zext_16` of a byte (R12): the value a byte load leaves in a register (R75). -/
def Byte.toWord (b : Byte) : Word := b.setWidth 16

/-- A flag or carry bit as the 16-bit number 0 or 1. -/
def bitWord (b : Bool) : Word := (BitVec.ofBool b).setWidth 16

end Sys2Proof
end

