-- ==== Sys2Proof/Config.lean ====
section
/-! DEFINITION. The named parameters of 00_scope.md R7, as plain data: what an implementation, a platform or a
lost figure of the manual leaves open. A machine state carries one `Config`, which no step changes; a statement
about every state is a statement about every choice of the parameters. The defaults stand in Decode.lean. -/

namespace Sys2Proof

/-- Four distinct 2-bit numbers: a numbering of a group of four things (R7: "a bijection"). -/
structure Perm4 where
  p0 : BitVec 2
  p1 : BitVec 2
  p2 : BitVec 2
  p3 : BitVec 2
  distinct : [p0, p1, p2, p3].Nodup
  deriving DecidableEq, Repr

/-- Parameter `CS_POS` (R7, R31): four distinct bit positions in CS[4:0]; the fifth bit is reserved. -/
structure CsPositions where
  ir : Fin 5
  ie : Fin 5
  save : Fin 5
  sel : Fin 5
  distinct : [ir, ie, save, sel].Nodup
  deriving DecidableEq, Repr

/-- Parameters `ENC_IORB_RRR` and `ENC_XORB_RRR` (R130): which of the two slots left in the prefix-00 group
`iorb Rs0,Rs1,Rd` takes; `xorb` takes the other. -/
inductive IorbSlot where
  | slot11010
  | slot11110
  deriving DecidableEq, Repr

/-- Parameter `ENC_SVPC` (R130): the candidates of op[8:5] for `svpc`. -/
inductive SvpcCode where
  | code0110
  | code1110
  | code1111
  deriving DecidableEq, Repr

/-- The cells marked "free" in the prefix-11 table of R125, by op[10:8] and op[4:2]. -/
def freeCell (ggg ooo : BitVec 3) : Bool :=
  if ggg = 0b000#3 then ooo == 0b001#3 || ooo == 0b110#3 || ooo == 0b111#3
  else if ggg = 0b001#3 then decide (3 ≤ ooo.toNat)
  else if ggg = 0b011#3 then decide (4 ≤ ooo.toNat)
  else ggg == 0b100#3 || ggg == 0b101#3 || ggg == 0b111#3

/-- A candidate of `ENC_SXBT` or `ENC_SXSH` (R130): a free cell of the prefix-11 table. -/
structure DyadicCell where
  ggg : BitVec 3
  ooo : BitVec 3
  free : freeCell ggg ooo = true
  deriving DecidableEq, Repr

/-- Everything that the reading of an opcode word depends on: `SR_NUM`, `AN_NUM` and the `ENC_` parameters
(R7, R22, R23, R130). `ENC_IORB_C8U` has one candidate only and is no field. -/
structure Encoding where
  /-- `SR_NUM` of CC, CS, LC, AU: the numbers 0 to 3 (R22). -/
  srLow : Perm4
  /-- `SR_NUM` of SP, TA, SA, ID, less 4: the numbers 4 to 7. -/
  srHigh : Perm4
  /-- `AN_NUM` of SP, TA, R6, R7 (R23). -/
  anNum : Perm4
  iorbSlot : IorbSlot
  sxbt : DyadicCell
  sxsh : DyadicCell
  svpc : SvpcCode
  cellsDiffer : ¬ (sxbt.ggg = sxsh.ggg ∧ sxbt.ooo = sxsh.ooo)
  deriving DecidableEq, Repr

/-- Parameter `MISALIGNED_SHORT` (R76). -/
inductive Misaligned where
  /-- bit 0 of the address is ignored: the processor's own behaviour -/
  | ignoreLsb
  /-- the memory controller transfers the bytes at `eda` and `eda + 1` -/
  | controller
  deriving DecidableEq, Repr

/-- Parameter `SVPC_VALUE` (R321). -/
inductive SvpcValue where
  | nextPc
  | lastExecuted
  deriving DecidableEq, Repr

/-- Parameter `ID_IMA` (R42): the implementation architecture codes 0 to 4. -/
inductive Ima where
  | iss
  | light
  | performance
  | superscalar
  | ultraLight
  deriving DecidableEq, Repr

/-- The byte order of a mapping of the instruction memory (D24): which byte of an opcode word has the lower address. -/
inductive WordOrder where
  /-- the low byte, as in the image of R71 -/
  | lowFirst
  /-- the high byte -/
  | highFirst
  deriving DecidableEq, Repr

/-- A piece of the mapping `IMEM_IN_DATA_SPACE` (R88, D24): the data byte addresses from `dataBase` on, `size` of them,
alias the bytes of the instruction memory from image address `imageBase` on, in one of the two byte orders. -/
structure ImemWindow where
  dataBase : Word
  size : Nat
  imageBase : BitVec 17
  order : WordOrder
  deriving DecidableEq, Repr

/-- The parameters of R7. -/
structure Config where
  enc : Encoding
  /-- `CC_POS` of C, O, Z, N (R25): positions in CC[3:0]. -/
  ccPos : Perm4
  csPos : CsPositions
  /-- `ID_POS` of FML, ISA, IMA, REV (R42): nibble numbers. -/
  idPos : Perm4
  idIma : Ima
  idRev : BitVec 4
  /-- "A value of zero is illegal" (R42). -/
  idRevLegal : idRev ≠ 0
  /-- `RESET_IRN` (R371): what external logic drives on IRN[3:0] during the power-up reset. -/
  resetIrn : BitVec 4
  misaligned : Misaligned
  /-- `IMEM_IN_DATA_SPACE` (R88): none is `false`; every mapping function is some list of windows
  (`aliasedIn_complete`), the first that has an address counts. -/
  imemWindows : List ImemWindow
  svpcValue : SvpcValue
  deriving DecidableEq, Repr

/-- Parameter `INIT_UNDEF` for the reset event (R53, D20): the arbitrary values that a reset leaves in the registers
the manual does not define. It has no body: nothing can be proved of a value of it. Its argument counts the
draws a machine has taken. -/
opaque Config.initUndef : Nat → Word

end Sys2Proof
end

