-- ==== Sys2Proof/Syntax.lean ====
section
/-! DEFINITION. The instructions of the base ISA: one constructor for each row of spec/opcode_table.json (30_encoding.md
R110 to R125, R131), its operands in assembly order, sources first (R132). A constant operand is held as the bits of its
field; Operands.lean gives the value it denotes. -/

namespace Sys2Proof

/-- The general registers (R20). -/
inductive GReg where
  | r0 | r1 | r2 | r3 | r4 | r5 | r6 | r7
  deriving DecidableEq, Repr

/-- The address register group An (R23). -/
inductive AReg where
  | sp | ta | r6 | r7
  deriving DecidableEq, Repr

/-- The special registers (R22). -/
inductive SReg where
  | cc | cs | lc | au | sp | ta | sa | id
  deriving DecidableEq, Repr

/-- An instruction. In the register-selection forms bit k of `sel` is the flag of slot k of the slot list of R169
(slot 0 is R0 or SA, slot 1 is R1 or TA, slot k is Rk for k = 2 to 6). -/
inductive Instr where
  -- load byte (R191, R192)
  | ldbtDirect (da8 : BitVec 8) (rd : GReg)
  | ldbtOffset (ofs : BitVec 5) (an : AReg) (rd : GReg)
  | ldbtIndex (rx : GReg) (an : AReg) (rd : GReg)
  | ldbtPostInc (an : AReg) (rd : GReg)
  | ldbtPreDec (an : AReg) (rd : GReg)
  | ldbtPostUpd (an : AReg) (rd : GReg)
  | ldbtRgs (an : AReg) (sel : BitVec 7)
  -- load short (R193, R194)
  | ldshDirect (da8 : BitVec 8) (rd : GReg)
  | ldshOffset (ofs : BitVec 5) (an : AReg) (rd : GReg)
  | ldshIndex (rx : GReg) (an : AReg) (rd : GReg)
  | ldshPostInc (an : AReg) (rd : GReg)
  | ldshPreDec (an : AReg) (rd : GReg)
  | ldshPostUpd (an : AReg) (rd : GReg)
  | ldshRgs (an : AReg) (sel : BitVec 7)
  -- store byte (R195, R196)
  | stbtDirect (rs : GReg) (da8 : BitVec 8)
  | stbtOffset (rs : GReg) (ofs : BitVec 5) (an : AReg)
  | stbtIndex (rs : GReg) (rx : GReg) (an : AReg)
  | stbtPostInc (rs : GReg) (an : AReg)
  | stbtPreDec (rs : GReg) (an : AReg)
  | stbtPostUpd (rs : GReg) (an : AReg)
  | stbtRgs (sel : BitVec 7) (an : AReg)
  -- store short (R197, R198)
  | stshDirect (rs : GReg) (da8 : BitVec 8)
  | stshOffset (rs : GReg) (ofs : BitVec 5) (an : AReg)
  | stshIndex (rs : GReg) (rx : GReg) (an : AReg)
  | stshPostInc (rs : GReg) (an : AReg)
  | stshPreDec (rs : GReg) (an : AReg)
  | stshPostUpd (rs : GReg) (an : AReg)
  | stshRgs (sel : BitVec 7) (an : AReg)
  -- jumps with an absolute address (R310, R311)
  | jumpIa12 (ia12 : BitVec 12)
  | jpsrIa12 (ia12 : BitVec 12)
  -- branches (R292 to R307)
  | brnc (io8 : BitVec 8)
  | brcr (io8 : BitVec 8)
  | brno (io8 : BitVec 8)
  | brof (io8 : BitVec 8)
  | brnz (io8 : BitVec 8)
  | brzr (io8 : BitVec 8)
  | brps (io8 : BitVec 8)
  | brng (io8 : BitVec 8)
  | brls (io8 : BitVec 8)
  | brhi (io8 : BitVec 8)
  | brlo (io8 : BitVec 8)
  | brge (io8 : BitVec 8)
  | brle (io8 : BitVec 8)
  | brgt (io8 : BitVec 8)
  | bral (io8 : BitVec 8)
  | brlc (io8 : BitVec 8)
  -- the flow control group without a register (R308 to R321)
  | siah (iah4 : BitVec 4)
  | jumpTa
  | jpsrTa
  | rtsr
  | rtir
  | stop
  | svpc
  | rspc
  | stie
  | clie
  | rsie
  | scie
  | stas
  | clas
  -- forms with a constant of 8 or 9 bits (R121)
  | moveConst (c9s : BitVec 9) (rd : GReg)
  | addh (c16 : BitVec 8) (rb : GReg)
  | subfConst (c8un : BitVec 8) (rb : GReg)
  | addtConst (c8un : BitVec 8) (rb : GReg)
  | andbConst (c8u : BitVec 8) (rb : GReg)
  | iorbConst (c8u : BitVec 8) (rb : GReg)
  | compPos (c8a : BitVec 8) (rs1 : GReg)
  -- prefix 00 (R122)
  | subf (rs0 : GReg) (rs1 : GReg) (rd : GReg)
  | addt (rs0 : GReg) (rs1 : GReg) (rd : GReg)
  | subc (rs0 : GReg) (rs1 : GReg) (rd : GReg)
  | addc (rs0 : GReg) (rs1 : GReg) (rd : GReg)
  | mult (rs0 : GReg) (rs1 : GReg) (rd : GReg)
  | andb (rs0 : GReg) (rs1 : GReg) (rd : GReg)
  | iorb (rs0 : GReg) (rs1 : GReg) (rd : GReg)
  | xorb (rs0 : GReg) (rs1 : GReg) (rd : GReg)
  -- prefix 01 (R123)
  | shlz (rs0 : GReg) (rs1 : GReg) (rd : GReg)
  | shru (rs0 : GReg) (rs1 : GReg) (rd : GReg)
  | shlf (rs0 : GReg) (rs1 : GReg) (rd : GReg)
  | shrs (rs0 : GReg) (rs1 : GReg) (rd : GReg)
  | btcl (rs0 : GReg) (rs1 : GReg) (rd : GReg)
  | btts (rs0 : GReg) (rs1 : GReg)
  | btst (rs0 : GReg) (rs1 : GReg) (rd : GReg)
  | bttg (rs0 : GReg) (rs1 : GReg) (rd : GReg)
  -- prefix 10 (R124)
  | mlhu (rs0 : GReg) (rs1 : GReg) (rd : GReg)
  | mlhs (rs0 : GReg) (rs1 : GReg) (rd : GReg)
  | comp (rs0 : GReg) (rs1 : GReg)
  | cmpc (rs0 : GReg) (rs1 : GReg)
  | compNeg (c8a : BitVec 6) (rs1 : GReg)
  | adsp (c7sn : BitVec 7) (ad : AReg)
  | mtsrConstCc (c7u : BitVec 7)
  | mtsrConstCs (c7u : BitVec 7)
  | mtsrConstLc (c7un : BitVec 7)
  | mtsrConstAu (c7sn : BitVec 7)
  -- prefix 11, constant count or index (R125)
  | shlzConst (shc4 : BitVec 4) (rb : GReg)
  | shruConst (shc4 : BitVec 4) (rb : GReg)
  | shlfConst (shc4 : BitVec 4) (rb : GReg)
  | shrsConst (shc4 : BitVec 4) (rb : GReg)
  | btclConst (bti4 : BitVec 4) (rb : GReg)
  | bttsConst (bti4 : BitVec 4) (rs : GReg)
  | btstConst (bti4 : BitVec 4) (rb : GReg)
  | bttgConst (bti4 : BitVec 4) (rb : GReg)
  -- prefix 11, dyadic (R125)
  | move (rs : GReg) (rd : GReg)
  | negt (rs : GReg) (rd : GReg)
  | absl (rs : GReg) (rd : GReg)
  | invt (rs : GReg) (rd : GReg)
  | clzr (rs : GReg) (rd : GReg)
  | sxbt (rs : GReg) (rd : GReg)
  | sxsh (rs : GReg) (rd : GReg)
  | sbcf (rs : GReg) (rd : GReg)
  | adcf (rs : GReg) (rd : GReg)
  | cpcf (rs : GReg)
  | mfdp (rd : GReg)
  | mtdp (rs : GReg)
  | mfsr (srs : SReg) (rd : GReg)
  | mtsr (rs : GReg) (srd : SReg)
  deriving DecidableEq, Repr

end Sys2Proof
end

