-- ==== Sys2Proof/WellFormed.lean ====
section
/-! DEFINITION. When an `Instr` is an instruction of the base ISA. Every field of every form may hold every value
(30_encoding.md R129), but for the register selection, which takes 1 to 7 registers (R116, R169). -/

namespace Sys2Proof

/-- A register selection selects at least one register (R169: "n = 0 is `refuse EmptyRGS`"). -/
def selectionWf (sel : BitVec 7) : Bool := sel != 0

/-- The well-formed instructions. -/
def Instr.wf : Instr → Bool
  | .ldbtRgs _ sel | .ldshRgs _ sel => selectionWf sel
  | .stbtRgs sel _ | .stshRgs sel _ => selectionWf sel
  | _ => true

end Sys2Proof
end

