-- ==== Sys2Proof/Decode.lean ====
section
/-! DEFINITION. Opcode words to instructions and back (30_encoding.md R100 to R130): the five bit groups of a word, the
register numbers, the decoder, the encoder, and the default values of the parameters of 00_scope.md R7. -/

namespace Sys2Proof

/-! ## The defaults of the parameters -/

/-- The listing order: 0, 1, 2, 3. -/
def Perm4.listing : Perm4 := ⟨0, 1, 2, 3, by decide⟩

/-- The reverse of the listing order, for fields listed from the most significant end. -/
def Perm4.fromTop : Perm4 := ⟨3, 2, 1, 0, by decide⟩

/-- The defaults of `SR_NUM`, `AN_NUM` and the `ENC_` parameters (R7, R130).
DESIGN CHOICE (the spec's D1, D2, D25), unsafe: notes/assumptions/1.md and 2.md. -/
def Encoding.default : Encoding where
  srLow := .listing
  srHigh := .listing
  anNum := .listing
  iorbSlot := .slot11010
  sxbt := ⟨0b000, 0b110, by decide⟩
  sxsh := ⟨0b000, 0b111, by decide⟩
  svpc := .code0110
  cellsDiffer := by decide

/-- The defaults of the parameters of R7. DESIGN CHOICE (the spec's), unsafe: notes/assumptions/1.md to 6.md. -/
def Config.default : Config where
  enc := .default
  ccPos := .fromTop
  csPos := ⟨3, 2, 1, 0, by decide⟩
  idPos := .fromTop
  idIma := .iss
  idRev := 1
  idRevLegal := by decide
  resetIrn := 0
  misaligned := .ignoreLsb
  imemWindows := []
  svpcValue := .nextPc

/-! ## Numbers of registers -/

/-- The number at place `k` of a numbering. -/
def Perm4.at (p : Perm4) (k : BitVec 2) : BitVec 2 :=
  if k = 0 then p.p0 else if k = 1 then p.p1 else if k = 2 then p.p2 else p.p3

/-- The place that has the number `n`. -/
def Perm4.placeOf (p : Perm4) (n : BitVec 2) : BitVec 2 :=
  if n = p.p0 then 0 else if n = p.p1 then 1 else if n = p.p2 then 2 else 3

/-- A 3-bit field holding i selects Ri (R103). -/
def GReg.num : GReg → BitVec 3
  | .r0 => 0 | .r1 => 1 | .r2 => 2 | .r3 => 3 | .r4 => 4 | .r5 => 5 | .r6 => 6 | .r7 => 7

/-- The general register a 3-bit field selects (R103). -/
def GReg.ofNum (n : BitVec 3) : GReg :=
  if n = 0 then .r0 else if n = 1 then .r1 else if n = 2 then .r2 else if n = 3 then .r3
  else if n = 4 then .r4 else if n = 5 then .r5 else if n = 6 then .r6 else .r7

/-- The 2-bit number of an address register under `AN_NUM` (R23, R103). -/
def AReg.num (e : Encoding) : AReg → BitVec 2
  | .sp => e.anNum.at 0 | .ta => e.anNum.at 1 | .r6 => e.anNum.at 2 | .r7 => e.anNum.at 3

/-- The address register a 2-bit field selects under `AN_NUM` (R23, R103). -/
def AReg.ofNum (e : Encoding) (n : BitVec 2) : AReg :=
  let k := e.anNum.placeOf n
  if k = 0 then .sp else if k = 1 then .ta else if k = 2 then .r6 else .r7

/-- The 3-bit number of a special register under `SR_NUM` (R22, R103). -/
def SReg.num (e : Encoding) : SReg → BitVec 3
  | .cc => 0#1 ++ e.srLow.at 0 | .cs => 0#1 ++ e.srLow.at 1
  | .lc => 0#1 ++ e.srLow.at 2 | .au => 0#1 ++ e.srLow.at 3
  | .sp => 1#1 ++ e.srHigh.at 0 | .ta => 1#1 ++ e.srHigh.at 1
  | .sa => 1#1 ++ e.srHigh.at 2 | .id => 1#1 ++ e.srHigh.at 3

/-- The low order special register a 2-bit SRLd field selects (R22, R168). -/
def SReg.ofLow (e : Encoding) (n : BitVec 2) : SReg :=
  let k := e.srLow.placeOf n
  if k = 0 then .cc else if k = 1 then .cs else if k = 2 then .lc else .au

/-- The special register with a number 4 to 7, by the number's low two bits (R22). -/
def SReg.ofHigh (e : Encoding) (n : BitVec 2) : SReg :=
  let k := e.srHigh.placeOf n
  if k = 0 then .sp else if k = 1 then .ta else if k = 2 then .sa else .id

/-- The special register a 3-bit SRs or SRd field selects under `SR_NUM` (R22, R103). -/
def SReg.ofNum (e : Encoding) (n : BitVec 3) : SReg :=
  if n.extractLsb' 2 1 = 0 then SReg.ofLow e (n.extractLsb' 0 2) else SReg.ofHigh e (n.extractLsb' 0 2)

/-- The slot flags of a register selection in the order of the other direction: the flags of a load stand in the
word with R6 at op[14], those of a store with R6 at op[5] (R116). -/
def reverseFlags (f : BitVec 7) : BitVec 7 :=
  f.extractLsb' 0 1 ++ f.extractLsb' 1 1 ++ f.extractLsb' 2 1 ++ f.extractLsb' 3 1
    ++ f.extractLsb' 4 1 ++ f.extractLsb' 5 1 ++ f.extractLsb' 6 1

/-! ## The five bit groups of an opcode word -/

/-- op[15:14], op[13:11], op[10:8], op[7:5] and op[4:0]: every field of R102 is made of whole groups and of bits of
the 3-bit groups. -/
structure Groups where
  hi : BitVec 2
  a : BitVec 3
  b : BitVec 3
  d : BitVec 3
  o : BitVec 5
  deriving DecidableEq, Repr

/-- The groups of a word. -/
def Groups.ofWord (op : Word) : Groups where
  hi := op.extractLsb' 14 2
  a := op.extractLsb' 11 3
  b := op.extractLsb' 8 3
  d := op.extractLsb' 5 3
  o := op.extractLsb' 0 5

/-- The word with these groups. -/
def Groups.toWord (g : Groups) : Word := g.hi ++ g.a ++ g.b ++ g.d ++ g.o

/-- op[15:8]: C8U, C8UN, C16, C8A positive, IO8S (R102). -/
def Groups.byteField (g : Groups) : BitVec 8 := g.hi ++ g.a ++ g.b

/-- DA8: DA8[7:5] = op[10:8], DA8[4:0] = op[15:11] (R110). -/
def Groups.da8 (g : Groups) : BitVec 8 := g.b ++ g.hi ++ g.a

/-- DO5S: op[15:11] (R111). -/
def Groups.do5 (g : Groups) : BitVec 5 := g.hi ++ g.a

/-- C7: bit 6 is op[7], bits 5 to 0 are op[13:8] (R102). -/
def Groups.c7 (g : Groups) : BitVec 7 := g.d.extractLsb' 2 1 ++ g.a ++ g.b

/-- The 2-bit register number at op[6:5]: Ad, SRLd (R102). -/
def Groups.low2 (g : Groups) : BitVec 2 := g.d.extractLsb' 0 2

/-- The 2-bit register number at op[9:8]: An (R102). -/
def Groups.an (g : Groups) : BitVec 2 := g.b.extractLsb' 0 2

/-- SHC4, BTI4: op[13:10] (R102). -/
def Groups.count4 (g : Groups) : BitVec 4 := g.a ++ g.b.extractLsb' 2 1

/-- IA12: op[15:4] (R117). -/
def Groups.ia12 (g : Groups) : BitVec 12 := g.hi ++ g.a ++ g.b ++ g.d ++ g.o.extractLsb' 4 1

/-- IAH4: op[8:5] (R119). -/
def Groups.iah4 (g : Groups) : BitVec 4 := g.b.extractLsb' 0 1 ++ g.d

/-- The flags of a register selection as they stand in the word: op[14:11], op[7:5] (R116). -/
def Groups.flags7 (g : Groups) : BitVec 7 := g.hi.extractLsb' 0 1 ++ g.a ++ g.d

/-! ## The decoder -/

/-- Why a word is no instruction (R128). -/
inductive DecodeReject where
  /-- the word matches no form (R128 items 1 and 3 to 7) -/
  | unassignedOpcode
  /-- a register selection with no register (R128 item 2) -/
  | emptyRgs
  deriving DecidableEq, Repr

/-- What the decoder answers. -/
abbrev Decoded := Except DecodeReject Instr

/-- The four operations that op[4:3] selects in both load/store groups (R104). -/
inductive LdSt where
  | ldbt | ldsh | stbt | stsh
  deriving DecidableEq, Repr

/-- Direct load/store (R110). -/
def decodeDirect (k : LdSt) (g : Groups) : Decoded :=
  match k with
  | .ldbt => .ok (.ldbtDirect g.da8 (.ofNum g.d))
  | .ldsh => .ok (.ldshDirect g.da8 (.ofNum g.d))
  | .stbt => .ok (.stbtDirect (.ofNum g.d) g.da8)
  | .stsh => .ok (.stshDirect (.ofNum g.d) g.da8)

/-- Indirect with offset (R111). -/
def decodeOffset (e : Encoding) (k : LdSt) (g : Groups) : Decoded :=
  match k with
  | .ldbt => .ok (.ldbtOffset g.do5 (.ofNum e g.an) (.ofNum g.d))
  | .ldsh => .ok (.ldshOffset g.do5 (.ofNum e g.an) (.ofNum g.d))
  | .stbt => .ok (.stbtOffset (.ofNum g.d) g.do5 (.ofNum e g.an))
  | .stsh => .ok (.stshOffset (.ofNum g.d) g.do5 (.ofNum e g.an))

/-- Indirect with index (R112). -/
def decodeIndex (e : Encoding) (k : LdSt) (g : Groups) : Decoded :=
  match k with
  | .ldbt => .ok (.ldbtIndex (.ofNum g.a) (.ofNum e g.an) (.ofNum g.d))
  | .ldsh => .ok (.ldshIndex (.ofNum g.a) (.ofNum e g.an) (.ofNum g.d))
  | .stbt => .ok (.stbtIndex (.ofNum g.d) (.ofNum g.a) (.ofNum e g.an))
  | .stsh => .ok (.stshIndex (.ofNum g.d) (.ofNum g.a) (.ofNum e g.an))

/-- The updating modes, by op[13:11] under op[15:14] = 01 (R113, R114, R115); the other five codes are unassigned
(R128 item 1). -/
def decodeUpdating (e : Encoding) (k : LdSt) (g : Groups) : Decoded :=
  if g.a = 0b000#3 then
    match k with
    | .ldbt => .ok (.ldbtPostInc (.ofNum e g.an) (.ofNum g.d))
    | .ldsh => .ok (.ldshPostInc (.ofNum e g.an) (.ofNum g.d))
    | .stbt => .ok (.stbtPostInc (.ofNum g.d) (.ofNum e g.an))
    | .stsh => .ok (.stshPostInc (.ofNum g.d) (.ofNum e g.an))
  else if g.a = 0b001#3 then
    match k with
    | .ldbt => .ok (.ldbtPreDec (.ofNum e g.an) (.ofNum g.d))
    | .ldsh => .ok (.ldshPreDec (.ofNum e g.an) (.ofNum g.d))
    | .stbt => .ok (.stbtPreDec (.ofNum g.d) (.ofNum e g.an))
    | .stsh => .ok (.stshPreDec (.ofNum g.d) (.ofNum e g.an))
  else if g.a = 0b010#3 then
    match k with
    | .ldbt => .ok (.ldbtPostUpd (.ofNum e g.an) (.ofNum g.d))
    | .ldsh => .ok (.ldshPostUpd (.ofNum e g.an) (.ofNum g.d))
    | .stbt => .ok (.stbtPostUpd (.ofNum g.d) (.ofNum e g.an))
    | .stsh => .ok (.stshPostUpd (.ofNum g.d) (.ofNum e g.an))
  else .error .unassignedOpcode

/-- Register selection (R116). -/
def decodeRgs (e : Encoding) (k : LdSt) (g : Groups) : Decoded :=
  if g.flags7 = 0 then .error .emptyRgs
  else
    match k with
    | .ldbt => .ok (.ldbtRgs (.ofNum e g.an) g.flags7)
    | .ldsh => .ok (.ldshRgs (.ofNum e g.an) g.flags7)
    | .stbt => .ok (.stbtRgs (reverseFlags g.flags7) (.ofNum e g.an))
    | .stsh => .ok (.stshRgs (reverseFlags g.flags7) (.ofNum e g.an))

/-- Indirect load/store: op[10] and op[15:14] select the mode (R104, R111 to R116). -/
def decodeIndirect (e : Encoding) (k : LdSt) (g : Groups) : Decoded :=
  if g.b.extractLsb' 2 1 = 0 then decodeOffset e k g
  else if g.hi = 0b00#2 then decodeIndex e k g
  else if g.hi = 0b01#2 then decodeUpdating e k g
  else decodeRgs e k g

/-- The first branch group, op[4:0] = 10101 (R118). -/
def decodeBranch0 (g : Groups) : Decoded :=
  if g.d = 0b000#3 then .ok (.brnc g.byteField)
  else if g.d = 0b001#3 then .ok (.brcr g.byteField)
  else if g.d = 0b010#3 then .ok (.brno g.byteField)
  else if g.d = 0b011#3 then .ok (.brof g.byteField)
  else if g.d = 0b100#3 then .ok (.brnz g.byteField)
  else if g.d = 0b101#3 then .ok (.brzr g.byteField)
  else if g.d = 0b110#3 then .ok (.brps g.byteField)
  else .ok (.brng g.byteField)

/-- The second branch group, op[4:0] = 11101 (R118). -/
def decodeBranch1 (g : Groups) : Decoded :=
  if g.d = 0b000#3 then .ok (.brls g.byteField)
  else if g.d = 0b001#3 then .ok (.brhi g.byteField)
  else if g.d = 0b010#3 then .ok (.brlo g.byteField)
  else if g.d = 0b011#3 then .ok (.brge g.byteField)
  else if g.d = 0b100#3 then .ok (.brle g.byteField)
  else if g.d = 0b101#3 then .ok (.brgt g.byteField)
  else if g.d = 0b110#3 then .ok (.bral g.byteField)
  else .ok (.brlc g.byteField)

/-- op[15:9] = 0, the fixed zeros of `siah` and of the implied group (R127). -/
def Groups.highSevenZero (g : Groups) : Bool :=
  g.hi == 0b00#2 && g.a == 0b000#3 && g.b.extractLsb' 1 2 == 0b00#2

/-- op[8:5] of `svpc` under `ENC_SVPC` (R130). -/
def SvpcCode.bits : SvpcCode → BitVec 4
  | .code0110 => 0b0110#4 | .code1110 => 0b1110#4 | .code1111 => 0b1111#4

/-- The implied group by op[8:5] (R120). -/
def decodeImplied (e : Encoding) (g : Groups) : Decoded :=
  if g.highSevenZero then
    if g.iah4 = e.svpc.bits then .ok .svpc
    else if g.iah4 = 0b0000#4 then .ok .jumpTa
    else if g.iah4 = 0b0001#4 then .ok .jpsrTa
    else if g.iah4 = 0b0010#4 then .ok .rtsr
    else if g.iah4 = 0b0011#4 then .ok .rtir
    else if g.iah4 = 0b0100#4 then .ok .stop
    else if g.iah4 = 0b0111#4 then .ok .rspc
    else if g.iah4 = 0b1000#4 then .ok .stie
    else if g.iah4 = 0b1001#4 then .ok .clie
    else if g.iah4 = 0b1010#4 then .ok .rsie
    else if g.iah4 = 0b1011#4 then .ok .scie
    else if g.iah4 = 0b1100#4 then .ok .stas
    else if g.iah4 = 0b1101#4 then .ok .clas
    else .error .unassignedOpcode
  else .error .unassignedOpcode

/-- `siah` (R119, R127). -/
def decodeSiah (g : Groups) : Decoded :=
  if g.highSevenZero then .ok (.siah g.iah4) else .error .unassignedOpcode

/-- Prefix 00 by op[4:2] (R122, R130). -/
def decodePrefix00 (e : Encoding) (ooo : BitVec 3) (g : Groups) : Decoded :=
  let s := GReg.ofNum g.a
  let t := GReg.ofNum g.b
  let d := GReg.ofNum g.d
  if ooo = 0b000#3 then .ok (.subf s t d)
  else if ooo = 0b001#3 then .ok (.addt s t d)
  else if ooo = 0b010#3 then .ok (.subc s t d)
  else if ooo = 0b011#3 then .ok (.addc s t d)
  else if ooo = 0b100#3 then .ok (.mult s t d)
  else if ooo = 0b101#3 then .ok (.andb s t d)
  else if ooo = 0b110#3 then
    match e.iorbSlot with
    | .slot11010 => .ok (.iorb s t d)
    | .slot11110 => .ok (.xorb s t d)
  else
    match e.iorbSlot with
    | .slot11010 => .ok (.xorb s t d)
    | .slot11110 => .ok (.iorb s t d)

/-- Prefix 01 by op[4:2] (R123). -/
def decodePrefix01 (ooo : BitVec 3) (g : Groups) : Decoded :=
  let s := GReg.ofNum g.a
  let t := GReg.ofNum g.b
  let d := GReg.ofNum g.d
  if ooo = 0b000#3 then .ok (.shlz s t d)
  else if ooo = 0b001#3 then .ok (.shru s t d)
  else if ooo = 0b010#3 then .ok (.shlf s t d)
  else if ooo = 0b011#3 then .ok (.shrs s t d)
  else if ooo = 0b100#3 then .ok (.btcl s t d)
  else if ooo = 0b101#3 then (if g.d = 0b000#3 then .ok (.btts s t) else .error .unassignedOpcode)
  else if ooo = 0b110#3 then .ok (.btst s t d)
  else .ok (.bttg s t d)

/-- `mtsr` with a constant, by the low order special register at op[6:5] (R205 to R208). -/
def decodeMtsrConst (e : Encoding) (g : Groups) : Decoded :=
  match SReg.ofLow e g.low2 with
  | .cc => .ok (.mtsrConstCc g.c7)
  | .cs => .ok (.mtsrConstCs g.c7)
  | .lc => .ok (.mtsrConstLc g.c7)
  | _ => .ok (.mtsrConstAu g.c7)

/-- Prefix 10 by op[4:2] (R124). -/
def decodePrefix10 (e : Encoding) (ooo : BitVec 3) (g : Groups) : Decoded :=
  let s := GReg.ofNum g.a
  let t := GReg.ofNum g.b
  let d := GReg.ofNum g.d
  if ooo = 0b000#3 then .ok (.mlhu s t d)
  else if ooo = 0b001#3 then .ok (.mlhs s t d)
  else if ooo = 0b100#3 then
    (if g.d = 0b000#3 then .ok (.comp s t)
     else if g.d = 0b001#3 then .ok (.cmpc s t)
     else .error .unassignedOpcode)
  else if ooo = 0b101#3 then .ok (.compNeg (g.a ++ g.b) d)
  else if ooo = 0b110#3 then .ok (.adsp g.c7 (.ofNum e g.low2))
  else if ooo = 0b111#3 then decodeMtsrConst e g
  else .error .unassignedOpcode

/-- Prefix 11 with op[9:8] = 10: constant shift and bit forms (R125). -/
def decodeConstCount (ooo : BitVec 3) (g : Groups) : Decoded :=
  let k := g.count4
  let b := GReg.ofNum g.d
  if ooo = 0b000#3 then .ok (.shlzConst k b)
  else if ooo = 0b001#3 then .ok (.shruConst k b)
  else if ooo = 0b010#3 then .ok (.shlfConst k b)
  else if ooo = 0b011#3 then .ok (.shrsConst k b)
  else if ooo = 0b100#3 then .ok (.btclConst k b)
  else if ooo = 0b101#3 then .ok (.bttsConst k b)
  else if ooo = 0b110#3 then .ok (.btstConst k b)
  else .ok (.bttgConst k b)

/-- Prefix 11, the dyadic forms by op[10:8] and op[4:2] (R125). -/
def decodeDyadic (e : Encoding) (ooo : BitVec 3) (g : Groups) : Decoded :=
  let s := GReg.ofNum g.a
  let d := GReg.ofNum g.d
  if g.b = e.sxbt.ggg ∧ ooo = e.sxbt.ooo then .ok (.sxbt s d)
  else if g.b = e.sxsh.ggg ∧ ooo = e.sxsh.ooo then .ok (.sxsh s d)
  else if g.b = 0b000#3 then
    (if ooo = 0b000#3 then .ok (.move s d)
     else if ooo = 0b010#3 then .ok (.negt s d)
     else if ooo = 0b011#3 then .ok (.absl s d)
     else if ooo = 0b100#3 then .ok (.invt s d)
     else if ooo = 0b101#3 then .ok (.clzr s d)
     else .error .unassignedOpcode)
  else if g.b = 0b001#3 then
    (if ooo = 0b000#3 then .ok (.sbcf s d)
     else if ooo = 0b001#3 then .ok (.adcf s d)
     else if ooo = 0b010#3 then (if g.d = 0b000#3 then .ok (.cpcf s) else .error .unassignedOpcode)
     else .error .unassignedOpcode)
  else if g.b = 0b011#3 then
    (if ooo = 0b000#3 then (if g.a = 0b000#3 then .ok (.mfdp d) else .error .unassignedOpcode)
     else if ooo = 0b001#3 then (if g.a = 0b000#3 then .ok (.mtdp d) else .error .unassignedOpcode)
     else if ooo = 0b010#3 then .ok (.mfsr (.ofNum e g.a) d)
     else if ooo = 0b011#3 then .ok (.mtsr d (.ofNum e g.a))
     else .error .unassignedOpcode)
  else .error .unassignedOpcode

/-- The register forms, op[1:0] = 10, by op[15:14] (R104, R122 to R125). -/
def decodeRegister (e : Encoding) (ooo : BitVec 3) (g : Groups) : Decoded :=
  if g.hi = 0b00#2 then decodePrefix00 e ooo g
  else if g.hi = 0b01#2 then decodePrefix01 ooo g
  else if g.hi = 0b10#2 then decodePrefix10 e ooo g
  else if g.an = 0b10#2 then decodeConstCount ooo g
  else decodeDyadic e ooo g

/-- The decoder on the groups of a word, by op[4:0] (R104: every word falls in exactly one line). -/
def decodeGroups (e : Encoding) (g : Groups) : Decoded :=
  match g.o.toNat with
  | 0b00000 => decodeDirect .ldbt g
  | 0b01000 => decodeDirect .ldsh g
  | 0b10000 => decodeDirect .stbt g
  | 0b11000 => decodeDirect .stsh g
  | 0b00100 => decodeIndirect e .ldbt g
  | 0b01100 => decodeIndirect e .ldsh g
  | 0b10100 => decodeIndirect e .stbt g
  | 0b11100 => decodeIndirect e .stsh g
  | 0b00001 => .ok (.jumpIa12 g.ia12)
  | 0b10001 => .ok (.jumpIa12 g.ia12)
  | 0b01001 => .ok (.jpsrIa12 g.ia12)
  | 0b11001 => .ok (.jpsrIa12 g.ia12)
  | 0b00101 => decodeSiah g
  | 0b01101 => decodeImplied e g
  | 0b10101 => decodeBranch0 g
  | 0b11101 => decodeBranch1 g
  | 0b00011 => .ok (.moveConst (0#1 ++ g.byteField) (.ofNum g.d))
  | 0b10011 => .ok (.moveConst (1#1 ++ g.byteField) (.ofNum g.d))
  | 0b01011 => .ok (.subfConst g.byteField (.ofNum g.d))
  | 0b11011 => .ok (.iorbConst g.byteField (.ofNum g.d))
  | 0b00111 => .ok (.addh g.byteField (.ofNum g.d))
  | 0b01111 => .ok (.addtConst g.byteField (.ofNum g.d))
  | 0b10111 => .ok (.andbConst g.byteField (.ofNum g.d))
  | 0b11111 => .ok (.compPos g.byteField (.ofNum g.d))
  | _ => decodeRegister e (g.o.extractLsb' 2 3) g

/-- The decoder: the instruction of an opcode word, or why it is none (R101, R128). -/
def decode (e : Encoding) (op : Word) : Decoded := decodeGroups e (Groups.ofWord op)

/-- The instruction that the decoder reads, under the default parameters, from the `nbits` low bits of `w`, every other
bit of the opcode word being 0. -/
def decodeTableWord (nbits w : Nat) : Option Instr :=
  match decode Encoding.default (BitVec.ofNat 16 (w % 2 ^ nbits)) with
  | .ok i => some i
  | .error _ => none

/-! ## The encoder -/

/-- The groups of a word with an 8-bit field at op[15:8] (R121, R118). -/
def Groups.ofByteField (f : BitVec 8) (d : BitVec 3) (o : BitVec 5) : Groups :=
  ⟨f.extractLsb' 6 2, f.extractLsb' 3 3, f.extractLsb' 0 3, d, o⟩

/-- Direct form (R110). -/
def Groups.ofDirect (da8 : BitVec 8) (d : BitVec 3) (o : BitVec 5) : Groups :=
  ⟨da8.extractLsb' 3 2, da8.extractLsb' 0 3, da8.extractLsb' 5 3, d, o⟩

/-- Offset form (R111). -/
def Groups.ofOffset (ofs : BitVec 5) (an : BitVec 2) (d : BitVec 3) (o : BitVec 5) : Groups :=
  ⟨ofs.extractLsb' 3 2, ofs.extractLsb' 0 3, 0#1 ++ an, d, o⟩

/-- Index, updating modes (R112 to R115). -/
def Groups.ofMode (hi : BitVec 2) (a : BitVec 3) (an : BitVec 2) (d : BitVec 3) (o : BitVec 5) : Groups :=
  ⟨hi, a, 1#1 ++ an, d, o⟩

/-- Register selection, from the flags as they stand in the word (R116). -/
def Groups.ofFlags (f : BitVec 7) (an : BitVec 2) (o : BitVec 5) : Groups :=
  ⟨1#1 ++ f.extractLsb' 6 1, f.extractLsb' 3 3, 1#1 ++ an, f.extractLsb' 0 3, o⟩

/-- An absolute instruction address and op[3:0] (R117). -/
def Groups.ofIa12 (f : BitVec 12) (o : BitVec 4) : Groups :=
  ⟨f.extractLsb' 10 2, f.extractLsb' 7 3, f.extractLsb' 4 3, f.extractLsb' 1 3, f.extractLsb' 0 1 ++ o⟩

/-- op[15:9] = 0 and four bits at op[8:5] (R119, R120). -/
def Groups.ofCode4 (f : BitVec 4) (o : BitVec 5) : Groups :=
  ⟨0b00#2, 0b000#3, 0b00#2 ++ f.extractLsb' 3 1, f.extractLsb' 0 3, o⟩

/-- Prefix 10 with a 7-bit constant and a 2-bit register number (R124). -/
def Groups.ofC7 (c : BitVec 7) (n : BitVec 2) (o : BitVec 5) : Groups :=
  ⟨0b10#2, c.extractLsb' 3 3, c.extractLsb' 0 3, c.extractLsb' 6 1 ++ n, o⟩

/-- Prefix 11 with a constant count or index (R125). -/
def Groups.ofCount4 (k : BitVec 4) (d : BitVec 3) (o : BitVec 5) : Groups :=
  ⟨0b11#2, k.extractLsb' 1 3, k.extractLsb' 0 1 ++ 0b10#2, d, o⟩

/-- op[4:2] of `iorb Rs0,Rs1,Rd` and of `xorb` under the parameters (R130). -/
def IorbSlot.iorbBits : IorbSlot → BitVec 5
  | .slot11010 => 0b11010#5 | .slot11110 => 0b11110#5

/-- op[4:0] of `xorb Rs0,Rs1,Rd`: the other slot of the pair (R130). -/
def IorbSlot.xorbBits : IorbSlot → BitVec 5
  | .slot11010 => 0b11110#5 | .slot11110 => 0b11010#5

/-- The groups of an instruction's opcode word (R110 to R125). -/
def encodeGroups (e : Encoding) : Instr → Groups
  | .ldbtDirect da8 rd => .ofDirect da8 rd.num 0b00000#5
  | .ldbtOffset ofs an rd => .ofOffset ofs (an.num e) rd.num 0b00100#5
  | .ldbtIndex rx an rd => .ofMode 0b00#2 rx.num (an.num e) rd.num 0b00100#5
  | .ldbtPostInc an rd => .ofMode 0b01#2 0b000#3 (an.num e) rd.num 0b00100#5
  | .ldbtPreDec an rd => .ofMode 0b01#2 0b001#3 (an.num e) rd.num 0b00100#5
  | .ldbtPostUpd an rd => .ofMode 0b01#2 0b010#3 (an.num e) rd.num 0b00100#5
  | .ldbtRgs an sel => .ofFlags sel (an.num e) 0b00100#5
  | .ldshDirect da8 rd => .ofDirect da8 rd.num 0b01000#5
  | .ldshOffset ofs an rd => .ofOffset ofs (an.num e) rd.num 0b01100#5
  | .ldshIndex rx an rd => .ofMode 0b00#2 rx.num (an.num e) rd.num 0b01100#5
  | .ldshPostInc an rd => .ofMode 0b01#2 0b000#3 (an.num e) rd.num 0b01100#5
  | .ldshPreDec an rd => .ofMode 0b01#2 0b001#3 (an.num e) rd.num 0b01100#5
  | .ldshPostUpd an rd => .ofMode 0b01#2 0b010#3 (an.num e) rd.num 0b01100#5
  | .ldshRgs an sel => .ofFlags sel (an.num e) 0b01100#5
  | .stbtDirect rs da8 => .ofDirect da8 rs.num 0b10000#5
  | .stbtOffset rs ofs an => .ofOffset ofs (an.num e) rs.num 0b10100#5
  | .stbtIndex rs rx an => .ofMode 0b00#2 rx.num (an.num e) rs.num 0b10100#5
  | .stbtPostInc rs an => .ofMode 0b01#2 0b000#3 (an.num e) rs.num 0b10100#5
  | .stbtPreDec rs an => .ofMode 0b01#2 0b001#3 (an.num e) rs.num 0b10100#5
  | .stbtPostUpd rs an => .ofMode 0b01#2 0b010#3 (an.num e) rs.num 0b10100#5
  | .stbtRgs sel an => .ofFlags (reverseFlags sel) (an.num e) 0b10100#5
  | .stshDirect rs da8 => .ofDirect da8 rs.num 0b11000#5
  | .stshOffset rs ofs an => .ofOffset ofs (an.num e) rs.num 0b11100#5
  | .stshIndex rs rx an => .ofMode 0b00#2 rx.num (an.num e) rs.num 0b11100#5
  | .stshPostInc rs an => .ofMode 0b01#2 0b000#3 (an.num e) rs.num 0b11100#5
  | .stshPreDec rs an => .ofMode 0b01#2 0b001#3 (an.num e) rs.num 0b11100#5
  | .stshPostUpd rs an => .ofMode 0b01#2 0b010#3 (an.num e) rs.num 0b11100#5
  | .stshRgs sel an => .ofFlags (reverseFlags sel) (an.num e) 0b11100#5
  | .jumpIa12 ia12 => .ofIa12 ia12 0b0001#4
  | .jpsrIa12 ia12 => .ofIa12 ia12 0b1001#4
  | .brnc io8 => .ofByteField io8 0b000#3 0b10101#5
  | .brcr io8 => .ofByteField io8 0b001#3 0b10101#5
  | .brno io8 => .ofByteField io8 0b010#3 0b10101#5
  | .brof io8 => .ofByteField io8 0b011#3 0b10101#5
  | .brnz io8 => .ofByteField io8 0b100#3 0b10101#5
  | .brzr io8 => .ofByteField io8 0b101#3 0b10101#5
  | .brps io8 => .ofByteField io8 0b110#3 0b10101#5
  | .brng io8 => .ofByteField io8 0b111#3 0b10101#5
  | .brls io8 => .ofByteField io8 0b000#3 0b11101#5
  | .brhi io8 => .ofByteField io8 0b001#3 0b11101#5
  | .brlo io8 => .ofByteField io8 0b010#3 0b11101#5
  | .brge io8 => .ofByteField io8 0b011#3 0b11101#5
  | .brle io8 => .ofByteField io8 0b100#3 0b11101#5
  | .brgt io8 => .ofByteField io8 0b101#3 0b11101#5
  | .bral io8 => .ofByteField io8 0b110#3 0b11101#5
  | .brlc io8 => .ofByteField io8 0b111#3 0b11101#5
  | .siah iah4 => .ofCode4 iah4 0b00101#5
  | .jumpTa => .ofCode4 0b0000#4 0b01101#5
  | .jpsrTa => .ofCode4 0b0001#4 0b01101#5
  | .rtsr => .ofCode4 0b0010#4 0b01101#5
  | .rtir => .ofCode4 0b0011#4 0b01101#5
  | .stop => .ofCode4 0b0100#4 0b01101#5
  | .svpc => .ofCode4 e.svpc.bits 0b01101#5
  | .rspc => .ofCode4 0b0111#4 0b01101#5
  | .stie => .ofCode4 0b1000#4 0b01101#5
  | .clie => .ofCode4 0b1001#4 0b01101#5
  | .rsie => .ofCode4 0b1010#4 0b01101#5
  | .scie => .ofCode4 0b1011#4 0b01101#5
  | .stas => .ofCode4 0b1100#4 0b01101#5
  | .clas => .ofCode4 0b1101#4 0b01101#5
  | .moveConst c9s rd => .ofByteField (c9s.extractLsb' 0 8) rd.num (c9s.extractLsb' 8 1 ++ 0b0011#4)
  | .addh c16 rb => .ofByteField c16 rb.num 0b00111#5
  | .subfConst c8un rb => .ofByteField c8un rb.num 0b01011#5
  | .addtConst c8un rb => .ofByteField c8un rb.num 0b01111#5
  | .andbConst c8u rb => .ofByteField c8u rb.num 0b10111#5
  | .iorbConst c8u rb => .ofByteField c8u rb.num 0b11011#5
  | .compPos c8a rs1 => .ofByteField c8a rs1.num 0b11111#5
  | .subf rs0 rs1 rd => ⟨0b00#2, rs0.num, rs1.num, rd.num, 0b00010#5⟩
  | .addt rs0 rs1 rd => ⟨0b00#2, rs0.num, rs1.num, rd.num, 0b00110#5⟩
  | .subc rs0 rs1 rd => ⟨0b00#2, rs0.num, rs1.num, rd.num, 0b01010#5⟩
  | .addc rs0 rs1 rd => ⟨0b00#2, rs0.num, rs1.num, rd.num, 0b01110#5⟩
  | .mult rs0 rs1 rd => ⟨0b00#2, rs0.num, rs1.num, rd.num, 0b10010#5⟩
  | .andb rs0 rs1 rd => ⟨0b00#2, rs0.num, rs1.num, rd.num, 0b10110#5⟩
  | .iorb rs0 rs1 rd => ⟨0b00#2, rs0.num, rs1.num, rd.num, e.iorbSlot.iorbBits⟩
  | .xorb rs0 rs1 rd => ⟨0b00#2, rs0.num, rs1.num, rd.num, e.iorbSlot.xorbBits⟩
  | .shlz rs0 rs1 rd => ⟨0b01#2, rs0.num, rs1.num, rd.num, 0b00010#5⟩
  | .shru rs0 rs1 rd => ⟨0b01#2, rs0.num, rs1.num, rd.num, 0b00110#5⟩
  | .shlf rs0 rs1 rd => ⟨0b01#2, rs0.num, rs1.num, rd.num, 0b01010#5⟩
  | .shrs rs0 rs1 rd => ⟨0b01#2, rs0.num, rs1.num, rd.num, 0b01110#5⟩
  | .btcl rs0 rs1 rd => ⟨0b01#2, rs0.num, rs1.num, rd.num, 0b10010#5⟩
  | .btts rs0 rs1 => ⟨0b01#2, rs0.num, rs1.num, 0b000#3, 0b10110#5⟩
  | .btst rs0 rs1 rd => ⟨0b01#2, rs0.num, rs1.num, rd.num, 0b11010#5⟩
  | .bttg rs0 rs1 rd => ⟨0b01#2, rs0.num, rs1.num, rd.num, 0b11110#5⟩
  | .mlhu rs0 rs1 rd => ⟨0b10#2, rs0.num, rs1.num, rd.num, 0b00010#5⟩
  | .mlhs rs0 rs1 rd => ⟨0b10#2, rs0.num, rs1.num, rd.num, 0b00110#5⟩
  | .comp rs0 rs1 => ⟨0b10#2, rs0.num, rs1.num, 0b000#3, 0b10010#5⟩
  | .cmpc rs0 rs1 => ⟨0b10#2, rs0.num, rs1.num, 0b001#3, 0b10010#5⟩
  | .compNeg c8a rs1 => ⟨0b10#2, c8a.extractLsb' 3 3, c8a.extractLsb' 0 3, rs1.num, 0b10110#5⟩
  | .adsp c7sn ad => .ofC7 c7sn (ad.num e) 0b11010#5
  | .mtsrConstCc c7u => .ofC7 c7u (e.srLow.at 0) 0b11110#5
  | .mtsrConstCs c7u => .ofC7 c7u (e.srLow.at 1) 0b11110#5
  | .mtsrConstLc c7un => .ofC7 c7un (e.srLow.at 2) 0b11110#5
  | .mtsrConstAu c7sn => .ofC7 c7sn (e.srLow.at 3) 0b11110#5
  | .shlzConst shc4 rb => .ofCount4 shc4 rb.num 0b00010#5
  | .shruConst shc4 rb => .ofCount4 shc4 rb.num 0b00110#5
  | .shlfConst shc4 rb => .ofCount4 shc4 rb.num 0b01010#5
  | .shrsConst shc4 rb => .ofCount4 shc4 rb.num 0b01110#5
  | .btclConst bti4 rb => .ofCount4 bti4 rb.num 0b10010#5
  | .bttsConst bti4 rs => .ofCount4 bti4 rs.num 0b10110#5
  | .btstConst bti4 rb => .ofCount4 bti4 rb.num 0b11010#5
  | .bttgConst bti4 rb => .ofCount4 bti4 rb.num 0b11110#5
  | .move rs rd => ⟨0b11#2, rs.num, 0b000#3, rd.num, 0b00010#5⟩
  | .negt rs rd => ⟨0b11#2, rs.num, 0b000#3, rd.num, 0b01010#5⟩
  | .absl rs rd => ⟨0b11#2, rs.num, 0b000#3, rd.num, 0b01110#5⟩
  | .invt rs rd => ⟨0b11#2, rs.num, 0b000#3, rd.num, 0b10010#5⟩
  | .clzr rs rd => ⟨0b11#2, rs.num, 0b000#3, rd.num, 0b10110#5⟩
  | .sxbt rs rd => ⟨0b11#2, rs.num, e.sxbt.ggg, rd.num, e.sxbt.ooo ++ 0b10#2⟩
  | .sxsh rs rd => ⟨0b11#2, rs.num, e.sxsh.ggg, rd.num, e.sxsh.ooo ++ 0b10#2⟩
  | .sbcf rs rd => ⟨0b11#2, rs.num, 0b001#3, rd.num, 0b00010#5⟩
  | .adcf rs rd => ⟨0b11#2, rs.num, 0b001#3, rd.num, 0b00110#5⟩
  | .cpcf rs => ⟨0b11#2, rs.num, 0b001#3, 0b000#3, 0b01010#5⟩
  | .mfdp rd => ⟨0b11#2, 0b000#3, 0b011#3, rd.num, 0b00010#5⟩
  | .mtdp rs => ⟨0b11#2, 0b000#3, 0b011#3, rs.num, 0b00110#5⟩
  | .mfsr srs rd => ⟨0b11#2, srs.num e, 0b011#3, rd.num, 0b01010#5⟩
  | .mtsr rs srd => ⟨0b11#2, srd.num e, 0b011#3, rs.num, 0b01110#5⟩

/-- The opcode word of an instruction (R100). -/
def encode (e : Encoding) (i : Instr) : Word := (encodeGroups e i).toWord

end Sys2Proof
end

