-- ==== Sys2Proof/Machine/State.lean ====
section
/-! DEFINITION. Everything the spec gives the machine (10_state.md R20 to R53), the lines the host drives (60_exceptions.md
R332, R350, R363), why a step can stop, and the machine right after reset (70_reset_and_hazards.md R370 to R372). -/

namespace Sys2Proof.Machine

/-- The eight general registers (R20). -/
structure Regs where
  r0 : Word
  r1 : Word
  r2 : Word
  r3 : Word
  r4 : Word
  r5 : Word
  r6 : Word
  r7 : Word
  deriving DecidableEq, Repr

/-- The four condition code flags of CC and of its shadow CCS (R25 to R29, R46). Their places in the 16-bit view of
CC are the parameter `CC_POS`. -/
structure Flags where
  c : Bool
  o : Bool
  z : Bool
  n : Bool
  deriving DecidableEq, Repr

/-- The control and status register (R31). Its reserved bit has no state: it reads as 0 (R44). -/
structure ControlStatus where
  /-- CS.IVTP (R32) -/
  ivtp : BitVec 11
  /-- CS.IR, interrupt status (R33) -/
  ir : Bool
  /-- CS.IE, interrupt enable (R34) -/
  ie : Bool
  /-- CS.IS, interrupt enable save (R35) -/
  save : Bool
  /-- CS.AS, address select (R36) -/
  sel : Bool
  deriving DecidableEq, Repr

/-- Run state (R49). -/
inductive RunState where
  | running
  | stopped
  deriving DecidableEq, Repr

/-- A memory: (address, byte) pairs, addresses strictly rising, no entry for a byte that reads as an unlisted address
reads. Memory.lean holds its operations. -/
abbrev Memory := List Host.Cell

/-- What the debug module does at a boundary at which the processor is stopped (R353, R356). -/
inductive DebugMove where
  /-- nothing: the processor stays stopped -/
  | wait
  /-- INJI asserted with this opcode on DBI -/
  | inject (op : Word)
  /-- the falling edge of STRQ while STPD is asserted -/
  | resume
  deriving DecidableEq, Repr

/-- What the host does at one instruction boundary: the levels of the processor's inputs and the debug module's direct
accesses (R96, R332, R350, R358, R360, R363). -/
structure Pins where
  /-- the reset input (R370) -/
  reset : Bool
  /-- IRQ (R332) -/
  irq : Bool
  /-- IRN[3:0] (R332, R371) -/
  irn : BitVec 4
  /-- STRQ, as a stop request to a running processor (R351) -/
  strq : Bool
  /-- the debug module's move when the processor is stopped -/
  debug : DebugMove
  /-- the data value on DBI[15:0], read by `mfdp` and `rspc` (R51, R353) -/
  dbi : Word
  /-- the fetched word is replaced on the fly by a `stop` opcode (R360) -/
  breakpoint : Bool
  /-- data bytes that a device or the debug module writes (R358, R363) -/
  dataWrites : List (Word × Byte)
  /-- opcode words that the debug module writes into the instruction memory of a stopped processor (R358, R363) -/
  codeWrites : List (Word × Word)
  deriving DecidableEq, Repr

/-- A host that does nothing. -/
def Pins.quiet : Pins where
  reset := false
  irq := false
  irn := 0
  strq := false
  debug := .wait
  dbi := 0
  breakpoint := false
  dataWrites := []
  codeWrites := []

/-- The state of the machine. -/
structure State where
  /-- the parameters of R7, fixed for the machine (the model's own field) -/
  cfg : Config
  /-- R0 to R7 (R20) -/
  x : Regs
  /-- the program counter, a word address (R24) -/
  pc : Word
  /-- condition codes (R25) -/
  cc : Flags
  /-- control and status (R31) -/
  cs : ControlStatus
  /-- loop counter (R37) -/
  lc : Word
  /-- address update (R38) -/
  au : Word
  /-- stack pointer (R39) -/
  sp : Word
  /-- target address (R40) -/
  ta : Word
  /-- subroutine address, the physical register (R41) -/
  sa : Word
  /-- interrupt return address, hidden (R45) -/
  ira : Word
  /-- condition code shadow, hidden (R46) -/
  ccs : Flags
  /-- instruction address high, hidden (R47) -/
  iah : BitVec 4
  /-- instruction address high shadow, hidden (R48) -/
  iahs : BitVec 4
  /-- run state; the output STPD (R49) -/
  run : RunState
  /-- the latch on DBO[15:0] (R51) -/
  dbgo : Word
  /-- the address of the last instruction executed from the instruction memory (R321, D16) -/
  lastPc : Word
  /-- the instruction memory as the byte image of R71: word a at bytes 2a and 2a+1 -/
  imem : Memory
  /-- the data memory (R72) -/
  dmem : Memory
  /-- the output IACK during the last step (R332, R336) -/
  iack : Bool
  /-- what the host does at this boundary (the model's own field) -/
  pins : Pins
  /-- what the host will do at the following boundaries (the model's own field) -/
  inputs : List Pins
  /-- how many arbitrary values resets have drawn (the model's own field; `Config.initUndef`) -/
  draws : Nat
  deriving DecidableEq, Repr

/-- No step faults: the processor has no synchronous exception, every data address and every pc is valid, and no
behaviour is treated as a fault (R330, R80, R81, 93_implementation_defined.md). -/
inductive Fault where
  deriving DecidableEq, Repr

/-- The points at which the spec says `refuse` (R13; 93_implementation_defined.md section 3). -/
inductive Refusal where
  /-- an instruction that has no meaning yet; raised by exec's arms only. Safe. -/
  | notModelled (mnemonic : String)
  /-- a word that matches no form (R128); raised by the step. Safe: nothing is claimed of such a word. -/
  | unassignedOpcode
  /-- a register selection with no register (R116, R169); raised by the step and by the four register-selection
  meanings. Safe. -/
  | emptyRgs
  /-- an updating load into its own address register (R199); raised by the updating load meanings. Safe. -/
  | loadIntoAddressRegister
  /-- `rtir` with CS.IR = 0 (R314); raised by its meaning. Safe. -/
  | rtirOutsideInterrupt
  /-- a control transfer injected in the stopped state (R355); raised by the flow meanings. Safe. -/
  | injectedControlTransfer
  deriving DecidableEq, Repr

/-- What a power-up leaves where the manual defines nothing (R52, R53): the registers that the parameter `INIT_UNDEF`
draws, and the contents of the two memories. -/
structure PowerUp where
  x : Regs
  ivtp : BitVec 11
  lc : Word
  au : Word
  sp : Word
  ta : Word
  sa : Word
  ira : Word
  iahs : BitVec 4
  dbgo : Word
  lastPc : Word
  imem : Memory
  dmem : Memory
  deriving DecidableEq, Repr

/-- A power-up that leaves zeros. DESIGN CHOICE, unsafe (notes/assumptions/7.md, 8.md). -/
def PowerUp.zeros : PowerUp where
  x := ⟨0, 0, 0, 0, 0, 0, 0, 0⟩
  ivtp := 0
  lc := 0
  au := 0
  sp := 0
  ta := 0
  sa := 0
  ira := 0
  iahs := 0
  dbgo := 0
  lastPc := 0
  imem := []
  dmem := []

/-- The machine right after the power-up reset (R53, R370 to R372) with these parameters and these values where the
manual defines none: external logic has driven `RESET_IRN` on IRN[3:0], and the host does nothing more. The run state
is D20's DESIGN CHOICE (notes/assumptions/22.md), unsafe. -/
def State.powerUp (c : Config) (u : PowerUp) : State where
  cfg := c
  x := u.x
  pc := c.resetIrn ++ 0#12
  cc := ⟨false, false, false, false⟩
  cs := ⟨u.ivtp, true, false, false, false⟩
  lc := u.lc
  au := u.au
  sp := u.sp
  ta := u.ta
  sa := u.sa
  ira := u.ira
  ccs := ⟨false, false, false, false⟩
  iah := 0
  iahs := u.iahs
  run := .running
  dbgo := u.dbgo
  lastPc := u.lastPc
  imem := u.imem
  dmem := u.dmem
  iack := false
  pins := { Pins.quiet with irn := c.resetIrn }
  inputs := []
  draws := 0

/-- The machine right after the power-up reset, with every parameter at its default and zeros where the manual defines
nothing. DESIGN CHOICE, unsafe (notes/assumptions/1.md to 8.md, 22.md). -/
def State.reset : State := State.powerUp .default .zeros

end Sys2Proof.Machine
end

