-- ==== Sys2Proof/Machine/Memory.lean ====
section
/-! DEFINITION. The two memories as canonical lists, and the access primitives of the data address space: byte order,
alignment, the mapping of the instruction memory (20_memory.md R70 to R88). -/

namespace Sys2Proof.Machine

/-- What an unlisted address reads as. The spec gives no power-up contents (R52, V11): DESIGN CHOICE, unsafe
(notes/assumptions/8.md). -/
def unlistedByte : Byte := 0

/-- The number of bytes of the data space (R72). -/
def dataBytes : Nat := 65536

/-- The number of bytes of the instruction memory image, two for each of 65536 words (R70, R71). -/
def imageBytes : Nat := 131072

/-- The byte at an address. -/
def Memory.read : Memory → Nat → Byte
  | [], _ => unlistedByte
  | (k, v) :: rest, a => if a = k then v else if a < k then unlistedByte else Memory.read rest a

/-- An entry in front of a memory, left out where it says what an unlisted address says. -/
def Memory.cons (a : Nat) (v : Byte) (rest : Memory) : Memory :=
  if v = unlistedByte then rest else (a, v) :: rest

/-- The memory with the byte at an address replaced, in canonical form. -/
def Memory.write : Memory → Nat → Byte → Memory
  | [], a, b => Memory.cons a b []
  | (k, v) :: rest, a, b =>
    if a = k then Memory.cons a b rest
    else if a < k then Memory.cons a b ((k, v) :: rest)
    else (k, v) :: Memory.write rest a b

/-- Addresses at least `lo`, strictly rising, below `bound`; no entry that says what an unlisted address says. -/
def Memory.wfFrom (bound : Nat) : Nat → Memory → Bool
  | _, [] => true
  | lo, (k, v) :: rest =>
    decide (lo ≤ k) && decide (k < bound) && v != unlistedByte && Memory.wfFrom bound (k + 1) rest

/-- The canonical form of a memory of `bound` bytes. -/
def Memory.wf (bound : Nat) (m : Memory) : Bool := Memory.wfFrom bound 0 m

/-- Both memories of a state are in canonical form. -/
def State.memWf (s : State) : Bool := Memory.wf imageBytes s.imem && Memory.wf dataBytes s.dmem

/-! ## The instruction memory -/

/-- `IMemRead(a)` (R71): bits [7:0] at image byte 2a, bits [15:8] at 2a+1. -/
def State.readCode (s : State) (a : Word) : Word :=
  s.imem.read (2 * a.toNat + 1) ++ s.imem.read (2 * a.toNat)

/-- The state with the opcode word at a word address replaced. -/
def State.writeCode (s : State) (a : Word) (op : Word) : State :=
  { s with
    imem := (s.imem.write (2 * a.toNat) (op.extractLsb' 0 8)).write (2 * a.toNat + 1) (op.extractLsb' 8 8) }

/-! ## The data address space -/

/-- The image address (R71) of the byte that a byte order puts at a place: its own, or that of the other byte of the same
word (D24). -/
def imagePlace (o : WordOrder) (k : Nat) : Nat :=
  match o with
  | .lowFirst => k
  | .highFirst => if k % 2 = 0 then k + 1 else k - 1

/-- The image byte that a data address aliases through a window, if the window has the address (R88). -/
def windowByte (w : ImemWindow) (a : Word) : Option Nat :=
  if (a - w.dataBase).toNat < w.size then
    some (imagePlace w.order ((w.imageBase.toNat + (a - w.dataBase).toNat) % imageBytes))
  else none

/-- The image byte that a data address aliases through the first of the windows that has it. -/
def aliasedIn : List ImemWindow → Word → Option Nat
  | [], _ => none
  | w :: rest, a =>
    match windowByte w a with
    | some k => some k
    | none => aliasedIn rest a

/-- The image byte of the instruction memory that a data address aliases, if the platform maps it there (R88). -/
def State.aliased (s : State) (a : Word) : Option Nat := aliasedIn s.cfg.imemWindows a

/-- The byte at a data address: `MemRead(a, 1)` (R80). -/
def State.readByte (s : State) (a : Word) : Byte :=
  match s.aliased a with
  | none => s.dmem.read a.toNat
  | some k => s.imem.read k

/-- The byte at a data address replaced: `MemWrite(a, 1, v)` (R81). -/
def State.writeByte (s : State) (a : Word) (b : Byte) : State :=
  { s with
    dmem := match s.aliased a with
      | none => s.dmem.write a.toNat b
      | some _ => s.dmem
    imem := match s.aliased a with
      | none => s.imem
      | some k => s.imem.write k b }

/-- The address of the low byte of a short access under `MISALIGNED_SHORT` (R76, R80, R81). -/
def State.shortBase (s : State) (a : Word) : Word :=
  match s.cfg.misaligned with
  | .ignoreLsb => a &&& 0xFFFE#16
  | .controller => a

/-- `MemRead(a, 2)`: little-endian, addresses modulo 2^16 (R73, R78, R80). -/
def State.readShort (s : State) (a : Word) : Word :=
  s.readByte (s.shortBase a + 1) ++ s.readByte (s.shortBase a)

/-- `MemWrite(a, 2, v)` (R73, R78, R81). -/
def State.writeShort (s : State) (a : Word) (v : Word) : State :=
  (s.writeByte (s.shortBase a) (v.extractLsb' 0 8)).writeByte (s.shortBase a + 1) (v.extractLsb' 8 8)

/-- The two operand sizes (R72, R82). -/
inductive Size where
  | byte
  | short
  deriving DecidableEq, Repr

/-- `size` of 40_operands.md section 3, in bytes. -/
def Size.bytes : Size → Word
  | .byte => 1
  | .short => 2

/-- What a load of a size puts in a register: a byte is zero-extended (R75). -/
def State.load (s : State) : Size → Word → Word
  | .byte, a => (s.readByte a).toWord
  | .short, a => s.readShort a

/-- What a store of a size does with a register's value: for a byte the 8 MSBs are discarded (R75). -/
def State.store (s : State) : Size → Word → Word → State
  | .byte, a, v => s.writeByte a (v.extractLsb' 0 8)
  | .short, a, v => s.writeShort a v

/-- The data addresses of the bytes that an access transfers (R80, R81). -/
def State.touched (s : State) : Size → Word → List Word
  | .byte, a => [a]
  | .short, a => [s.shortBase a, s.shortBase a + 1]

end Sys2Proof.Machine
end

