-- ==== Sys2Proof/Machine/Flags.lean ====
section
/-! DEFINITION. Condition codes: every flag computation of the spec (42_arithmetic.md R220 to R222,
43_logic_shift_bit.md R250 and R263), the branch conditions (45_flow_control.md R292 to R305) and the 16-bit view of CC
(10_state.md R25). -/

namespace Sys2Proof.Machine

/-- All four flags clear: CC and CCS after reset (R53). -/
def Flags.clear : Flags := ⟨false, false, false, false⟩

/-- `r = (s1 + s0 + cin) mod 2^16` (R220). -/
def addResult (s1 s0 : Word) (cin : Bool) : Word := s1 + s0 + bitWord cin

/-- `r = (s1 - s0 - bin) mod 2^16` (R221). -/
def subResult (s1 s0 : Word) (bin : Bool) : Word := s1 - s0 - bitWord bin

/-- Add flags, with the plain Z (R220); `r` is the result. -/
def addFlags (s1 s0 r : Word) : Flags where
  c := (s1.msb && s0.msb) || (s1.msb && !r.msb) || (s0.msb && !r.msb)
  o := (s1.msb && s0.msb && !r.msb) || (!s1.msb && !s0.msb && r.msb)
  z := r == 0
  n := r.msb

/-- Subtract flags, with the plain Z (R221): `s1` the minuend, `s0` the subtrahend, `r` the result; C is the borrow. -/
def subFlags (s1 s0 r : Word) : Flags where
  c := (!s1.msb && s0.msb) || (!s1.msb && r.msb) || (s0.msb && r.msb)
  o := (s1.msb && !s0.msb && !r.msb) || (!s1.msb && s0.msb && r.msb)
  z := r == 0
  n := r.msb

/-- The sticky zero flag of the with-carry instructions (R222): set only if it was set before. -/
def Flags.sticky (f : Flags) (zOld : Bool) : Flags := { f with z := zOld && f.z }

/-- The exclusive or of the `n` low bits of a word. -/
def parityBelow (w : Word) : Nat → Bool
  | 0 => false
  | n + 1 => xor (w.getLsbD n) (parityBelow w n)

/-- The parity of the sixteen bits: true when an odd number of them is set (R250). -/
def parity (w : Word) : Bool := parityBelow w 16

/-- Flags of `andb` (R250): C the parity of the result, O that parity exclusive-or'ed with the old C. -/
def andFlags (r : Word) (cOld : Bool) : Flags where
  c := parity r
  o := xor (parity r) cOld
  z := r == 0
  n := r.msb

/-- Flags of `btts` (R263), from the tested bit left in place. -/
def bitTestFlags (tmp : Word) : Flags where
  c := false
  o := false
  z := tmp == 0
  n := tmp.msb

/-- CC as a 16-bit value: the flags at `CC_POS`, every other bit 0 (R25, R43). -/
def Flags.toWord (p : Perm4) (f : Flags) : Word :=
  bitWord f.c <<< (p.at 0).toNat ||| bitWord f.o <<< (p.at 1).toNat
    ||| bitWord f.z <<< (p.at 2).toNat ||| bitWord f.n <<< (p.at 3).toNat

/-- The flags that a 16-bit value moved to CC sets; bits [15:4] are ignored (R25, R43). -/
def Flags.ofWord (p : Perm4) (v : Word) : Flags where
  c := v.getLsbD (p.at 0).toNat
  o := v.getLsbD (p.at 1).toNat
  z := v.getLsbD (p.at 2).toNat
  n := v.getLsbD (p.at 3).toNat

/-! ## Branch conditions (R292 to R305) -/

def condNc (f : Flags) : Bool := !f.c
def condCr (f : Flags) : Bool := f.c
def condNo (f : Flags) : Bool := !f.o
def condOf (f : Flags) : Bool := f.o
def condNz (f : Flags) : Bool := !f.z
def condZr (f : Flags) : Bool := f.z
def condPs (f : Flags) : Bool := !f.n
def condNg (f : Flags) : Bool := f.n
def condLs (f : Flags) : Bool := f.c || f.z
def condHi (f : Flags) : Bool := !f.c && !f.z
def condLo (f : Flags) : Bool := (f.n && !f.o) || (!f.n && f.o)
def condGe (f : Flags) : Bool := (f.n && f.o) || (!f.n && !f.o)
def condLe (f : Flags) : Bool := f.z || (f.n && !f.o) || (!f.n && f.o)
def condGt (f : Flags) : Bool := !f.z && ((f.n && f.o) || (!f.n && !f.o))

end Sys2Proof.Machine
end

