-- ==== Sys2Proof/Machine/Ops.lean ====
section
/-! DEFINITION. The named operations over the registers (10_state.md R20 to R48), the end of an instruction
(45_flow_control.md R290, 60_exceptions.md R354, R355), taking an interrupt and returning from one (R334 to R340), reset
(70_reset_and_hazards.md R370 to R372) and the host's lines at a boundary (60_exceptions.md R333, R351 to R363). -/

namespace Sys2Proof.Machine

/-! ## Registers -/

/-- `x[i]` (R20). -/
def Regs.get (x : Regs) : GReg → Word
  | .r0 => x.r0 | .r1 => x.r1 | .r2 => x.r2 | .r3 => x.r3
  | .r4 => x.r4 | .r5 => x.r5 | .r6 => x.r6 | .r7 => x.r7

/-- `x[i] <- v` (R20). -/
def Regs.set (x : Regs) (r : GReg) (v : Word) : Regs :=
  match r with
  | .r0 => { x with r0 := v } | .r1 => { x with r1 := v } | .r2 => { x with r2 := v } | .r3 => { x with r3 := v }
  | .r4 => { x with r4 := v } | .r5 => { x with r5 := v } | .r6 => { x with r6 := v } | .r7 => { x with r7 := v }

/-- Read a general register (R20). -/
def State.reg (s : State) (r : GReg) : Word := s.x.get r

/-- Write a general register (R20). -/
def State.setReg (s : State) (r : GReg) (v : Word) : State := { s with x := s.x.set r v }

/-- Write the condition codes. -/
def State.setCc (s : State) (f : Flags) : State := { s with cc := f }

/-- `an[k]`: SP, TA, x[6] or x[7] (R23). -/
def State.areg (s : State) : AReg → Word
  | .sp => s.sp | .ta => s.ta | .r6 => s.reg .r6 | .r7 => s.reg .r7

/-- `an[k] <- v` (R23). -/
def State.setAreg (s : State) (a : AReg) (v : Word) : State :=
  match a with
  | .sp => { s with sp := v }
  | .ta => { s with ta := v }
  | .r6 => s.setReg .r6 v
  | .r7 => s.setReg .r7 v

/-- CS as a 16-bit value: IVTP at [15:5], the flags at `CS_POS`, the reserved bit 0 (R31, R43, R44). -/
def ControlStatus.toWord (p : CsPositions) (c : ControlStatus) : Word :=
  (c.ivtp ++ 0#5) ||| bitWord c.ir <<< p.ir.val ||| bitWord c.ie <<< p.ie.val
    ||| bitWord c.save <<< p.save.val ||| bitWord c.sel <<< p.sel.val

/-- A move to CS: only IVTP is written (R31, R43). -/
def ControlStatus.move (c : ControlStatus) (v : Word) : ControlStatus := { c with ivtp := v.extractLsb' 5 11 }

/-- The code of ID.IMA (R42). -/
def Ima.code : Ima → BitVec 4
  | .iss => 0 | .light => 1 | .performance => 2 | .superscalar => 3 | .ultraLight => 4

/-- A 4-bit field at a nibble of a word. -/
def nibbleAt (v : BitVec 4) (k : BitVec 2) : Word := v.setWidth 16 <<< (4 * k.toNat)

/-- The constant in ID: FML = 5, ISA = 1, IMA and REV the parameters, placed by `ID_POS` (R42). -/
def idWord (c : Config) : Word :=
  nibbleAt 5 (c.idPos.at 0) ||| nibbleAt 1 (c.idPos.at 1)
    ||| nibbleAt (Ima.code c.idIma) (c.idPos.at 2) ||| nibbleAt c.idRev (c.idPos.at 3)

/-- `sr[k]` (R43): SA is SA or IRA by CS.AS (R36). -/
def State.sreg (s : State) : SReg → Word
  | .cc => s.cc.toWord s.cfg.ccPos
  | .cs => s.cs.toWord s.cfg.csPos
  | .lc => s.lc
  | .au => s.au
  | .sp => s.sp
  | .ta => s.ta
  | .sa => if s.cs.sel then s.ira else s.sa
  | .id => idWord s.cfg

/-- `sr[k] <- v` (R43): CC takes v[3:0], CS only IVTP, SA goes to SA or IRA by CS.AS, ID nowhere. -/
def State.setSreg (s : State) (k : SReg) (v : Word) : State :=
  match k with
  | .cc => { s with cc := Flags.ofWord s.cfg.ccPos v }
  | .cs => { s with cs := s.cs.move v }
  | .lc => { s with lc := v }
  | .au => { s with au := v }
  | .sp => { s with sp := v }
  | .ta => { s with ta := v }
  | .sa => if s.cs.sel then { s with ira := v } else { s with sa := v }
  | .id => s

/-! ## The end of an instruction -/

/-- Sequential execution: pc + 1 in the running state (R290); an injected instruction does not advance pc (R354). -/
def State.advancePc (s : State) : State :=
  { s with
    pc := match s.run with
      | .running => s.pc + 1
      | .stopped => s.pc }

/-- An instruction that ends sequentially in the state `s`. -/
def done (s : State) : Host.Outcome State Fault Refusal := .next s.advancePc

/-- A control transfer from `s` to `t`: the spec gives it no effect when it is injected (R355). -/
def transfer (s t : State) : Host.Outcome State Fault Refusal :=
  match s.run with
  | .running => .next t
  | .stopped => .refused .injectedControlTransfer

/-! ## Interrupts -/

/-- The acknowledge condition (R334). -/
def State.acknowledges (s : State) : Bool :=
  s.run == .running && s.pins.irq && s.cs.ie && !s.cs.ir

/-- The byte address of entry `n` of the interrupt vector table (R86, R338). -/
def vectorAddress (ivtp : BitVec 11) (n : BitVec 4) : Word := (ivtp ++ 0#5) + 2 * n.setWidth 16

/-- The entry sequence of interrupt `n` (R336, R337); the IACK it emits is set at the end of the boundary. -/
def State.takeInterrupt (s : State) (n : BitVec 4) : State :=
  { s with
    ira := s.pc
    ccs := s.cc
    iahs := s.iah
    iah := 0
    cs := { s.cs with ir := true }
    pc := s.readShort (vectorAddress s.cs.ivtp n) }

/-- The return from an interrupt (R314, R339). -/
def State.returnFromInterrupt (s : State) : State :=
  { s with
    pc := s.ira
    cc := s.ccs
    iah := s.iahs
    cs := { s.cs with ir := false } }

/-! ## Reset -/

/-- The reset event (R370 to R372): the defined values, the start page from IRN[3:0], the memories untouched. Every
register that the manual leaves undefined takes an arbitrary value, drawn afresh (R53, D20; notes/assumptions/7.md). -/
def State.takeReset (s : State) : State :=
  let d := fun k => Config.initUndef (s.draws + k)
  { s with
    x := ⟨d 0, d 1, d 2, d 3, d 4, d 5, d 6, d 7⟩
    pc := s.pins.irn ++ 0#12
    cc := Flags.clear
    cs := ⟨(d 8).extractLsb' 0 11, true, false, false, false⟩
    lc := d 9
    au := d 10
    sp := d 11
    ta := d 12
    sa := d 13
    ira := d 14
    ccs := Flags.clear
    iah := 0
    iahs := (d 15).extractLsb' 0 4
    run := .running
    dbgo := d 16
    lastPc := d 17
    draws := s.draws + 18 }

/-! ## The host's lines at a boundary -/

/-- The lines of a host that has no further move: the levels stay as they are, IRQ until it is acknowledged (R333) and
STRQ until it is released by a resume (R356); nothing else happens (notes/assumptions/10.md). -/
def Pins.held (p : Pins) (iack : Bool) : Pins :=
  { p with
    irq := p.irq && !iack
    strq := p.strq && p.debug != .resume
    debug := .wait
    breakpoint := false
    dataWrites := []
    codeWrites := [] }

/-- The end of a boundary: IACK is asserted exactly in the step that acknowledges (R336), and the lines take what the
host does next. -/
def State.nextBoundary (s : State) (iack : Bool) : State :=
  { s with
    iack := iack
    pins := match s.inputs with
      | [] => s.pins.held iack
      | p :: _ => p
    inputs := s.inputs.tail }

/-- The data bytes that a device or the debug module writes (R363). -/
def State.writeBytes : List (Word × Byte) → State → State
  | [], s => s
  | (a, b) :: rest, s => State.writeBytes rest (s.writeByte a b)

/-- The opcode words that the debug module writes (R363). -/
def State.writeCodes : List (Word × Word) → State → State
  | [], s => s
  | (a, w) :: rest, s => State.writeCodes rest (s.writeCode a w)

/-- The direct accesses of the debug module and of devices at this boundary; the instruction memory is written only
while the processor is stopped (R363). -/
def State.hostWrites (s : State) : State :=
  match s.run with
  | .running => State.writeBytes s.pins.dataWrites s
  | .stopped => State.writeCodes s.pins.codeWrites (State.writeBytes s.pins.dataWrites s)

/-- The opcode of `stop` (R120). -/
def stopOpcode : Word := 0x008D

/-- The opcode word fetched at pc (R100), or `stop` where a breakpoint register replaces it (R360). -/
def State.fetched (s : State) : Word := if s.pins.breakpoint then stopOpcode else s.readCode s.pc

/-- Note the address of an instruction executed from the instruction memory (R321, D16). -/
def State.noteExecuted (s : State) (a : Word) : State := { s with lastPc := a }

/-- Nothing but a fetch happens at this boundary: the processor runs, and the host resets, stops, interrupts and
writes nothing. -/
def State.undisturbed (s : State) : State :=
  { s with
    run := .running
    pins := { s.pins with
      reset := false
      irq := false
      strq := false
      breakpoint := false
      dataWrites := []
      codeWrites := [] } }

/-- Apply a function to the next state of an outcome. -/
def mapNext (f : State → State) : Host.Outcome State Fault Refusal → Host.Outcome State Fault Refusal
  | .next t => .next (f t)
  | .fault r => .fault r
  | .refused r => .refused r

/-- The name under which the step refuses a word that is no instruction (R128). -/
def DecodeReject.refusal : DecodeReject → Refusal
  | .unassignedOpcode => .unassignedOpcode
  | .emptyRgs => .emptyRgs

end Sys2Proof.Machine
end

