-- ==== Sys2Proof/Machine/Operands.lean ====
section
/-! DEFINITION. Operand types and addressing modes (40_operands.md R150 to R182), and the transfers that every load and
store form shares (41_load_store_move.md R190 to R200). -/

namespace Sys2Proof.Machine

/-! ## Constant operands -/

/-- C7U, 0 to 127 (R150). -/
def c7u (f : BitVec 7) : Word := f.setWidth 16

/-- C7UN, 1 to 128 (R151). -/
def c7un (f : BitVec 7) : Word := if f = 0 then 128 else f.setWidth 16

/-- C7SN, -64 to -1 and 1 to 64 (R152). -/
def c7sn (f : BitVec 7) : Word := if f = 0 then 64 else f.signExtend 16

/-- C8U, 0 to 255 (R153). -/
def c8u (f : BitVec 8) : Word := f.setWidth 16

/-- C8UN, 1 to 256 (R154). -/
def c8un (f : BitVec 8) : Word := if f = 0 then 256 else f.setWidth 16

/-- C8A, positive form, 0 to 255 (R155). -/
def c8aPos (f : BitVec 8) : Word := f.setWidth 16

/-- C8A, negative form, -64 to -1 (R155). -/
def c8aNeg (f : BitVec 6) : Word := 0b1111111111#10 ++ f

/-- C9S, -256 to 255 (R156). -/
def c9s (f : BitVec 9) : Word := f.signExtend 16

/-- C16: bits [7:0] are zero (R157). -/
def c16 (f : BitVec 8) : Word := f ++ 0#8

/-- IO8S, -128 to 127 words (R179). -/
def io8s (f : BitVec 8) : Word := f.signExtend 16

/-- IA12 with IAH: the effective instruction address (R178). -/
def ia12Target (s : State) (f : BitVec 12) : Word := s.iah ++ f

/-- An indirect shift count or bit index: bits [3:0] of Rs0 (R254, R259). -/
def countOf (v : Word) : BitVec 4 := v.extractLsb' 0 4

/-! ## Data addressing modes -/

/-- The addressing modes of a single-register load or store (R170 to R175). -/
inductive Mode where
  | direct (da8 : BitVec 8)
  | offset (ofs : BitVec 5) (an : AReg)
  | index (rx : GReg) (an : AReg)
  | postInc (an : AReg)
  | preDec (an : AReg)
  | postUpd (an : AReg)
  deriving DecidableEq, Repr

/-- The effective data address (R170 to R176, R78). -/
def Mode.eda (m : Mode) (z : Size) (s : State) : Word :=
  match m with
  | .direct f => z.bytes * f.setWidth 16
  | .offset ofs an => s.areg an + z.bytes * ofs.signExtend 16
  | .index rx an => s.areg an + z.bytes * s.reg rx
  | .postInc an => s.areg an
  | .preDec an => s.areg an - z.bytes
  | .postUpd an => s.areg an

/-- The address register that the mode updates and its new value (R173 to R176). -/
def Mode.update (m : Mode) (z : Size) (s : State) : Option (AReg × Word) :=
  match m with
  | .direct _ | .offset _ _ | .index _ _ => none
  | .postInc an => some (an, s.areg an + z.bytes)
  | .preDec an => some (an, s.areg an - z.bytes)
  | .postUpd an => some (an, s.areg an + s.au)

/-- The state with the mode's update of its address register, computed from `s0`. -/
def Mode.applyUpdate (m : Mode) (z : Size) (s0 s : State) : State :=
  match m.update z s0 with
  | none => s
  | some (an, v) => s.setAreg an v

/-- Whether an address register is this general register (R23). -/
def AReg.isReg : AReg → GReg → Bool
  | .r6, .r6 => true
  | .r7, .r7 => true
  | _, _ => false

/-- Whether the mode updates this general register as its address register (R199). -/
def Mode.updatesReg (m : Mode) (r : GReg) : Bool :=
  match m with
  | .direct _ | .offset _ _ | .index _ _ => false
  | .postInc an | .preDec an | .postUpd an => AReg.isReg an r

/-- Load into one register (R191, R193); an updating load into its own address register is refused (R199). -/
def loadReg (z : Size) (m : Mode) (rd : GReg) (s : State) : Host.Outcome State Fault Refusal :=
  if m.updatesReg rd then .refused .loadIntoAddressRegister
  else done (m.applyUpdate z s (s.setReg rd (s.load z (m.eda z s))))

/-- Store one register (R195, R197): the register is read before its update as address register (R199). -/
def storeReg (z : Size) (m : Mode) (rs : GReg) (s : State) : Host.Outcome State Fault Refusal :=
  done (m.applyUpdate z s (s.store z (m.eda z s) (s.reg rs)))

/-! ## Register selections -/

/-- A member of a register selection (R169). -/
inductive Slot where
  | gp (r : GReg)
  | sa
  | ta
  deriving DecidableEq, Repr

/-- The slot list (R169): the physical SA whatever CS.AS is. -/
def slots : Size → List Slot
  | .byte => [.gp .r0, .gp .r1, .gp .r2, .gp .r3, .gp .r4, .gp .r5, .gp .r6]
  | .short => [.sa, .ta, .gp .r2, .gp .r3, .gp .r4, .gp .r5, .gp .r6]

/-- The slots whose flag is set, from flag `k` on. -/
def pickFrom (sel : BitVec 7) : Nat → List Slot → List Slot
  | _, [] => []
  | k, x :: rest => if sel.getLsbD k then x :: pickFrom sel (k + 1) rest else pickFrom sel (k + 1) rest

/-- `sel` of R169: the selected slots in slot order. -/
def selected (z : Size) (sel : BitVec 7) : List Slot := pickFrom sel 0 (slots z)

/-- Read a slot. -/
def State.slot (s : State) : Slot → Word
  | .gp r => s.reg r
  | .sa => s.sa
  | .ta => s.ta

/-- Write a slot. -/
def State.setSlot (s : State) (k : Slot) (v : Word) : State :=
  match k with
  | .gp r => s.setReg r v
  | .sa => { s with sa := v }
  | .ta => { s with ta := v }

/-- Whether an address register is this slot (R199). -/
def AReg.isSlot : AReg → Slot → Bool
  | .ta, .ta => true
  | an, .gp r => AReg.isReg an r
  | _, _ => false

/-- Load the slots from ascending addresses (R95, R173). -/
def State.loadSlots (z : Size) : List Slot → Word → State → State
  | [], _, s => s
  | k :: rest, a, s => State.loadSlots z rest (a + z.bytes) (s.setSlot k (s.load z a))

/-- Store the slots to descending addresses, the address decremented before each access (R95, R174). -/
def State.storeSlots (z : Size) : List Slot → Word → State → State
  | [], _, s => s
  | k :: rest, a, s => State.storeSlots z rest (a - z.bytes) (s.store z (a - z.bytes) (s.slot k))

/-- `size * n` of R173 and R174. -/
def spanOf (z : Size) (n : Nat) : Word := z.bytes * BitVec.ofNat 16 n

/-- `(An)+,RGS` (R173, R192, R194, R199). -/
def loadRgs (z : Size) (an : AReg) (sel : BitVec 7) (s : State) : Host.Outcome State Fault Refusal :=
  if sel = 0 then .refused .emptyRgs
  else if (selected z sel).any (AReg.isSlot an) then .refused .loadIntoAddressRegister
  else
    done ((State.loadSlots z (selected z sel) (s.areg an) s).setAreg an
      (s.areg an + spanOf z (selected z sel).length))

/-- `RGS,-(An)` (R174, R196, R198): the address register is assigned last (R199). -/
def storeRgs (z : Size) (sel : BitVec 7) (an : AReg) (s : State) : Host.Outcome State Fault Refusal :=
  if sel = 0 then .refused .emptyRgs
  else
    done ((State.storeSlots z (selected z sel).reverse (s.areg an) s).setAreg an
      (s.areg an - spanOf z (selected z sel).length))

end Sys2Proof.Machine
end

