-- ==== Sys2Proof/Machine/Arithmetic.lean ====
section
/-! DEFINITION. Arithmetic instructions (42_arithmetic.md R220 to R238). -/

namespace Sys2Proof.Machine

/-- An add with result in `rd` and plain flags (R220). -/
def addInto (s1 s0 : Word) (rd : GReg) (s : State) : Host.Outcome State Fault Refusal :=
  let r := addResult s1 s0 false
  done ((s.setReg rd r).setCc (addFlags s1 s0 r))

/-- An add with carry in, result in `rd` and sticky Z (R220, R222). -/
def addCarryInto (s1 s0 : Word) (rd : GReg) (s : State) : Host.Outcome State Fault Refusal :=
  let r := addResult s1 s0 s.cc.c
  done ((s.setReg rd r).setCc ((addFlags s1 s0 r).sticky s.cc.z))

/-- `s1 - s0` with result in `rd` and plain flags (R221). -/
def subInto (s1 s0 : Word) (rd : GReg) (s : State) : Host.Outcome State Fault Refusal :=
  let r := subResult s1 s0 false
  done ((s.setReg rd r).setCc (subFlags s1 s0 r))

/-- `s1 - s0 - borrow` with result in `rd` and sticky Z (R221, R222). -/
def subCarryInto (s1 s0 : Word) (rd : GReg) (s : State) : Host.Outcome State Fault Refusal :=
  let r := subResult s1 s0 s.cc.c
  done ((s.setReg rd r).setCc ((subFlags s1 s0 r).sticky s.cc.z))

/-- The comparison `s1 - s0` with plain flags (R221); the result is not stored. -/
def compareFlags (s1 s0 : Word) (s : State) : Host.Outcome State Fault Refusal :=
  done (s.setCc (subFlags s1 s0 (subResult s1 s0 false)))

/-- The comparison `s1 - s0 - borrow` with sticky Z (R221, R222); the result is not stored. -/
def compareCarryFlags (s1 s0 : Word) (s : State) : Host.Outcome State Fault Refusal :=
  done (s.setCc ((subFlags s1 s0 (subResult s1 s0 s.cc.c)).sticky s.cc.z))

/-- The number of zero bits from bit `n - 1` down to the first set bit. -/
def leadingZerosBelow (w : Word) : Nat → Nat
  | 0 => 0
  | n + 1 => if w.getLsbD n then 0 else leadingZerosBelow w n + 1

/-- The absolute value; 0x8000 stays 0x8000 (R223). -/
def absWord (v : Word) : Word := if v.msb then -v else v

/-- `absl Rs,Rd` (R223). -/
def execAbsl (rs : GReg) (rd : GReg) (s : State) : Host.Outcome State Fault Refusal :=
  done (s.setReg rd (absWord (s.reg rs)))

/-- `adcf Rs,Rd` (R224): `addc` with a zero operand. -/
def execAdcf (rs : GReg) (rd : GReg) (s : State) : Host.Outcome State Fault Refusal :=
  addCarryInto (s.reg rs) 0 rd s

/-- `addc Rs0,Rs1,Rd` (R225). -/
def execAddc (rs0 : GReg) (rs1 : GReg) (rd : GReg) (s : State) : Host.Outcome State Fault Refusal :=
  addCarryInto (s.reg rs1) (s.reg rs0) rd s

/-- `addh C16,Rb` (R226). -/
def execAddh (c : BitVec 8) (rb : GReg) (s : State) : Host.Outcome State Fault Refusal :=
  done (s.setReg rb (c16 c + s.reg rb))

/-- `addt Rs0,Rs1,Rd` (R227). -/
def execAddt (rs0 : GReg) (rs1 : GReg) (rd : GReg) (s : State) : Host.Outcome State Fault Refusal :=
  addInto (s.reg rs1) (s.reg rs0) rd s

/-- `addt C8UN,Rb` (R227). -/
def execAddtConst (c : BitVec 8) (rb : GReg) (s : State) : Host.Outcome State Fault Refusal :=
  addInto (s.reg rb) (c8un c) rb s

/-- `adsp C7SN,Ad` (R228). -/
def execAdsp (c7 : BitVec 7) (ad : AReg) (s : State) : Host.Outcome State Fault Refusal :=
  done (s.setAreg ad (s.sp + c7sn c7))

/-- `clzr Rs,Rd` (R229). -/
def execClzr (rs : GReg) (rd : GReg) (s : State) : Host.Outcome State Fault Refusal :=
  done (s.setReg rd (BitVec.ofNat 16 (leadingZerosBelow (s.reg rs) 16)))

/-- `cmpc Rs0,Rs1` (R230). -/
def execCmpc (rs0 : GReg) (rs1 : GReg) (s : State) : Host.Outcome State Fault Refusal :=
  compareCarryFlags (s.reg rs1) (s.reg rs0) s

/-- `comp Rs0,Rs1` (R231). -/
def execComp (rs0 : GReg) (rs1 : GReg) (s : State) : Host.Outcome State Fault Refusal :=
  compareFlags (s.reg rs1) (s.reg rs0) s

/-- `comp C8A,Rs1` with C8A = 0 to 255 (R231). -/
def execCompPos (c : BitVec 8) (rs1 : GReg) (s : State) : Host.Outcome State Fault Refusal :=
  compareFlags (s.reg rs1) (c8aPos c) s

/-- `comp C8A,Rs1` with C8A = -64 to -1 (R231). -/
def execCompNeg (c : BitVec 6) (rs1 : GReg) (s : State) : Host.Outcome State Fault Refusal :=
  compareFlags (s.reg rs1) (c8aNeg c) s

/-- `cpcf Rs` (R232): `cmpc` with a zero subtrahend. -/
def execCpcf (rs : GReg) (s : State) : Host.Outcome State Fault Refusal :=
  compareCarryFlags (s.reg rs) 0 s

/-- `negt Rs,Rd` (R233). -/
def execNegt (rs : GReg) (rd : GReg) (s : State) : Host.Outcome State Fault Refusal :=
  done (s.setReg rd (-(s.reg rs)))

/-- `sbcf Rs,Rd` (R234): `subc` with a zero subtrahend. -/
def execSbcf (rs : GReg) (rd : GReg) (s : State) : Host.Outcome State Fault Refusal :=
  subCarryInto (s.reg rs) 0 rd s

/-- `subc Rs0,Rs1,Rd` (R235). -/
def execSubc (rs0 : GReg) (rs1 : GReg) (rd : GReg) (s : State) : Host.Outcome State Fault Refusal :=
  subCarryInto (s.reg rs1) (s.reg rs0) rd s

/-- `subf Rs0,Rs1,Rd` (R236). -/
def execSubf (rs0 : GReg) (rs1 : GReg) (rd : GReg) (s : State) : Host.Outcome State Fault Refusal :=
  subInto (s.reg rs1) (s.reg rs0) rd s

/-- `subf C8UN,Rb` (R236). -/
def execSubfConst (c : BitVec 8) (rb : GReg) (s : State) : Host.Outcome State Fault Refusal :=
  subInto (s.reg rb) (c8un c) rb s

/-- `sxbt Rs,Rd` (R237). -/
def execSxbt (rs : GReg) (rd : GReg) (s : State) : Host.Outcome State Fault Refusal :=
  done (s.setReg rd (((s.reg rs).extractLsb' 0 8).signExtend 16))

/-- `sxsh Rs,Rd` (R238): the sign word of the source. -/
def execSxsh (rs : GReg) (rd : GReg) (s : State) : Host.Outcome State Fault Refusal :=
  done (s.setReg rd (if (s.reg rs).msb then 0xFFFF else 0))

end Sys2Proof.Machine
end

