-- ==== Sys2Proof/Machine/Bit.lean ====
section
/-! DEFINITION. Bit manipulation and test instructions (43_logic_shift_bit.md R259 to R263). -/

namespace Sys2Proof.Machine

/-- `1 << i` (R260 to R263). -/
def bitMask (i : BitVec 4) : Word := 1#16 <<< i.toNat

/-- Bit clear (R260). -/
def bitClear (v : Word) (i : BitVec 4) : Word := v &&& ~~~(bitMask i)

/-- Bit set (R261). -/
def bitSet (v : Word) (i : BitVec 4) : Word := v ||| bitMask i

/-- Bit toggle (R262). -/
def bitToggle (v : Word) (i : BitVec 4) : Word := v ^^^ bitMask i

/-- `btcl Rs0,Rs1,Rd` (R260, R259). -/
def execBtcl (rs0 : GReg) (rs1 : GReg) (rd : GReg) (s : State) : Host.Outcome State Fault Refusal :=
  done (s.setReg rd (bitClear (s.reg rs1) (countOf (s.reg rs0))))

/-- `btcl BTI4,Rb` (R260, R259). -/
def execBtclConst (bti4 : BitVec 4) (rb : GReg) (s : State) : Host.Outcome State Fault Refusal :=
  done (s.setReg rb (bitClear (s.reg rb) bti4))

/-- `btst Rs0,Rs1,Rd` (R261, R259). -/
def execBtst (rs0 : GReg) (rs1 : GReg) (rd : GReg) (s : State) : Host.Outcome State Fault Refusal :=
  done (s.setReg rd (bitSet (s.reg rs1) (countOf (s.reg rs0))))

/-- `btst BTI4,Rb` (R261, R259). -/
def execBtstConst (bti4 : BitVec 4) (rb : GReg) (s : State) : Host.Outcome State Fault Refusal :=
  done (s.setReg rb (bitSet (s.reg rb) bti4))

/-- `bttg Rs0,Rs1,Rd` (R262, R259). -/
def execBttg (rs0 : GReg) (rs1 : GReg) (rd : GReg) (s : State) : Host.Outcome State Fault Refusal :=
  done (s.setReg rd (bitToggle (s.reg rs1) (countOf (s.reg rs0))))

/-- `bttg BTI4,Rb` (R262, R259). -/
def execBttgConst (bti4 : BitVec 4) (rb : GReg) (s : State) : Host.Outcome State Fault Refusal :=
  done (s.setReg rb (bitToggle (s.reg rb) bti4))

/-- `btts Rs0,Rs1` (R263, R259). -/
def execBtts (rs0 : GReg) (rs1 : GReg) (s : State) : Host.Outcome State Fault Refusal :=
  done (s.setCc (bitTestFlags (s.reg rs1 &&& bitMask (countOf (s.reg rs0)))))

/-- `btts BTI4,Rs` (R263, R259). -/
def execBttsConst (bti4 : BitVec 4) (rs : GReg) (s : State) : Host.Outcome State Fault Refusal :=
  done (s.setCc (bitTestFlags (s.reg rs &&& bitMask bti4)))

end Sys2Proof.Machine
end

