-- ==== Sys2Proof/Machine/Branch.lean ====
section
/-! DEFINITION. Branches (45_flow_control.md R291 to R307). -/

namespace Sys2Proof.Machine

/-- A branch (R291): to `pc + IO8S` if taken, else to `pc + 1`. -/
def branchIf (taken : Bool) (io8 : BitVec 8) (s : State) : Host.Outcome State Fault Refusal :=
  transfer s { s with pc := if taken then s.pc + io8s io8 else s.pc + 1 }

/-- `brnc IO8S` (R292). -/
def execBrnc (io8 : BitVec 8) (s : State) : Host.Outcome State Fault Refusal :=
  branchIf (condNc s.cc) io8 s

/-- `brcr IO8S` (R293). -/
def execBrcr (io8 : BitVec 8) (s : State) : Host.Outcome State Fault Refusal :=
  branchIf (condCr s.cc) io8 s

/-- `brno IO8S` (R294). -/
def execBrno (io8 : BitVec 8) (s : State) : Host.Outcome State Fault Refusal :=
  branchIf (condNo s.cc) io8 s

/-- `brof IO8S` (R295). -/
def execBrof (io8 : BitVec 8) (s : State) : Host.Outcome State Fault Refusal :=
  branchIf (condOf s.cc) io8 s

/-- `brnz IO8S` (R296). -/
def execBrnz (io8 : BitVec 8) (s : State) : Host.Outcome State Fault Refusal :=
  branchIf (condNz s.cc) io8 s

/-- `brzr IO8S` (R297). -/
def execBrzr (io8 : BitVec 8) (s : State) : Host.Outcome State Fault Refusal :=
  branchIf (condZr s.cc) io8 s

/-- `brps IO8S` (R298). -/
def execBrps (io8 : BitVec 8) (s : State) : Host.Outcome State Fault Refusal :=
  branchIf (condPs s.cc) io8 s

/-- `brng IO8S` (R299). -/
def execBrng (io8 : BitVec 8) (s : State) : Host.Outcome State Fault Refusal :=
  branchIf (condNg s.cc) io8 s

/-- `brls IO8S` (R300). -/
def execBrls (io8 : BitVec 8) (s : State) : Host.Outcome State Fault Refusal :=
  branchIf (condLs s.cc) io8 s

/-- `brhi IO8S` (R301). -/
def execBrhi (io8 : BitVec 8) (s : State) : Host.Outcome State Fault Refusal :=
  branchIf (condHi s.cc) io8 s

/-- `brlo IO8S` (R302). -/
def execBrlo (io8 : BitVec 8) (s : State) : Host.Outcome State Fault Refusal :=
  branchIf (condLo s.cc) io8 s

/-- `brge IO8S` (R303). -/
def execBrge (io8 : BitVec 8) (s : State) : Host.Outcome State Fault Refusal :=
  branchIf (condGe s.cc) io8 s

/-- `brle IO8S` (R304). -/
def execBrle (io8 : BitVec 8) (s : State) : Host.Outcome State Fault Refusal :=
  branchIf (condLe s.cc) io8 s

/-- `brgt IO8S` (R305). -/
def execBrgt (io8 : BitVec 8) (s : State) : Host.Outcome State Fault Refusal :=
  branchIf (condGt s.cc) io8 s

/-- `bral IO8S` (R306). -/
def execBral (io8 : BitVec 8) (s : State) : Host.Outcome State Fault Refusal :=
  branchIf true io8 s

/-- `brlc IO8S` (R307): the test is on LC after the decrement. -/
def execBrlc (io8 : BitVec 8) (s : State) : Host.Outcome State Fault Refusal :=
  branchIf (s.lc - 1 != 0) io8 { s with lc := s.lc - 1 }

end Sys2Proof.Machine
end

