-- ==== Sys2Proof/Machine/Flow.lean ====
section
/-! DEFINITION. Jumps, subroutines, interrupt control and debug instructions (45_flow_control.md R308 to R321). -/

namespace Sys2Proof.Machine

/-- `clas` (R308). -/
def execClas (s : State) : Host.Outcome State Fault Refusal :=
  done { s with cs := { s.cs with sel := false } }

/-- `clie` (R309). -/
def execClie (s : State) : Host.Outcome State Fault Refusal :=
  done { s with cs := { s.cs with ie := false } }

/-- `jump` through TA (R310): IAH is unchanged. -/
def execJumpTa (s : State) : Host.Outcome State Fault Refusal :=
  transfer s { s with pc := s.ta }

/-- `jump IA12` (R310): IAH is cleared. -/
def execJumpIa12 (ia12 : BitVec 12) (s : State) : Host.Outcome State Fault Refusal :=
  transfer s { s with pc := ia12Target s ia12, iah := 0 }

/-- `jpsr` through TA (R311): the link goes to the physical SA whatever CS.AS is. -/
def execJpsrTa (s : State) : Host.Outcome State Fault Refusal :=
  transfer s { s with sa := s.pc + 1, pc := s.ta }

/-- `jpsr IA12` (R311). -/
def execJpsrIa12 (ia12 : BitVec 12) (s : State) : Host.Outcome State Fault Refusal :=
  transfer s { s with sa := s.pc + 1, pc := ia12Target s ia12, iah := 0 }

/-- `rsie` (R312). -/
def execRsie (s : State) : Host.Outcome State Fault Refusal :=
  done { s with cs := { s.cs with ie := s.cs.save } }

/-- `rspc` (R313): pc takes the value on DBI in either run state (R354). -/
def execRspc (s : State) : Host.Outcome State Fault Refusal :=
  .next { s with pc := s.pins.dbi }

/-- `rtir` (R314): not defined outside the interrupt state. -/
def execRtir (s : State) : Host.Outcome State Fault Refusal :=
  if s.run == .running && !s.cs.ir then .refused .rtirOutsideInterrupt
  else transfer s s.returnFromInterrupt

/-- `rtsr` (R315): the physical SA whatever CS.AS is. -/
def execRtsr (s : State) : Host.Outcome State Fault Refusal :=
  transfer s { s with pc := s.sa }

/-- `scie` (R316). -/
def execScie (s : State) : Host.Outcome State Fault Refusal :=
  done { s with cs := { s.cs with save := s.cs.ie, ie := false } }

/-- `siah IAH4` (R317); 0 is legal (R180). -/
def execSiah (iah4 : BitVec 4) (s : State) : Host.Outcome State Fault Refusal :=
  done { s with iah := iah4 }

/-- `stas` (R318). -/
def execStas (s : State) : Host.Outcome State Fault Refusal :=
  done { s with cs := { s.cs with sel := true } }

/-- `stie` (R319). -/
def execStie (s : State) : Host.Outcome State Fault Refusal :=
  done { s with cs := { s.cs with ie := true } }

/-- `stop` (R320): the stopped state with pc at the next instruction; an injected `stop` changes nothing. -/
def execStop (s : State) : Host.Outcome State Fault Refusal :=
  .next { s.advancePc with run := .stopped }

/-- The address that `svpc` outputs (R321, D16): pc, which in the stopped state is the resume address; under
`SVPC_VALUE = last_executed` an injected `svpc` outputs the address of the last instruction executed. -/
def svpcOutput (s : State) : Word :=
  match s.run, s.cfg.svpcValue with
  | .stopped, .lastExecuted => s.lastPc
  | _, _ => s.pc

/-- `svpc` (R321). -/
def execSvpc (s : State) : Host.Outcome State Fault Refusal :=
  done { s with dbgo := svpcOutput s }

end Sys2Proof.Machine
end

