-- ==== Sys2Proof/Machine/LoadStore.lean ====
section
/-! DEFINITION. Loads and stores, one definition per form (41_load_store_move.md R191 to R200). -/

namespace Sys2Proof.Machine

/-- `ldbt DA8,Rd` (R191, R170). -/
def execLdbtDirect (da8 : BitVec 8) (rd : GReg) (s : State) : Host.Outcome State Fault Refusal :=
  loadReg .byte (.direct da8) rd s

/-- `ldbt (DO5S,An),Rd` (R191, R171). -/
def execLdbtOffset (ofs : BitVec 5) (an : AReg) (rd : GReg) (s : State) : Host.Outcome State Fault Refusal :=
  loadReg .byte (.offset ofs an) rd s

/-- `ldbt (Rx,An),Rd` (R191, R172). -/
def execLdbtIndex (rx : GReg) (an : AReg) (rd : GReg) (s : State) : Host.Outcome State Fault Refusal :=
  loadReg .byte (.index rx an) rd s

/-- `ldbt (An)+,Rd` (R191, R173). -/
def execLdbtPostInc (an : AReg) (rd : GReg) (s : State) : Host.Outcome State Fault Refusal :=
  loadReg .byte (.postInc an) rd s

/-- `ldbt -(An),Rd` (R191, R174). -/
def execLdbtPreDec (an : AReg) (rd : GReg) (s : State) : Host.Outcome State Fault Refusal :=
  loadReg .byte (.preDec an) rd s

/-- `ldbt (An)*,Rd` (R191, R175). -/
def execLdbtPostUpd (an : AReg) (rd : GReg) (s : State) : Host.Outcome State Fault Refusal :=
  loadReg .byte (.postUpd an) rd s

/-- `ldbt (An)+,RGS` (R192). -/
def execLdbtRgs (an : AReg) (sel : BitVec 7) (s : State) : Host.Outcome State Fault Refusal :=
  loadRgs .byte an sel s

/-- `ldsh DA8,Rd` (R193, R170). -/
def execLdshDirect (da8 : BitVec 8) (rd : GReg) (s : State) : Host.Outcome State Fault Refusal :=
  loadReg .short (.direct da8) rd s

/-- `ldsh (DO5S,An),Rd` (R193, R171). -/
def execLdshOffset (ofs : BitVec 5) (an : AReg) (rd : GReg) (s : State) : Host.Outcome State Fault Refusal :=
  loadReg .short (.offset ofs an) rd s

/-- `ldsh (Rx,An),Rd` (R193, R172). -/
def execLdshIndex (rx : GReg) (an : AReg) (rd : GReg) (s : State) : Host.Outcome State Fault Refusal :=
  loadReg .short (.index rx an) rd s

/-- `ldsh (An)+,Rd` (R193, R173). -/
def execLdshPostInc (an : AReg) (rd : GReg) (s : State) : Host.Outcome State Fault Refusal :=
  loadReg .short (.postInc an) rd s

/-- `ldsh -(An),Rd` (R193, R174). -/
def execLdshPreDec (an : AReg) (rd : GReg) (s : State) : Host.Outcome State Fault Refusal :=
  loadReg .short (.preDec an) rd s

/-- `ldsh (An)*,Rd` (R193, R175). -/
def execLdshPostUpd (an : AReg) (rd : GReg) (s : State) : Host.Outcome State Fault Refusal :=
  loadReg .short (.postUpd an) rd s

/-- `ldsh (An)+,RGS` (R194). -/
def execLdshRgs (an : AReg) (sel : BitVec 7) (s : State) : Host.Outcome State Fault Refusal :=
  loadRgs .short an sel s

/-- `stbt Rs,DA8` (R195, R170). -/
def execStbtDirect (rs : GReg) (da8 : BitVec 8) (s : State) : Host.Outcome State Fault Refusal :=
  storeReg .byte (.direct da8) rs s

/-- `stbt Rs,(DO5S,An)` (R195, R171). -/
def execStbtOffset (rs : GReg) (ofs : BitVec 5) (an : AReg) (s : State) : Host.Outcome State Fault Refusal :=
  storeReg .byte (.offset ofs an) rs s

/-- `stbt Rs,(Rx,An)` (R195, R172). -/
def execStbtIndex (rs : GReg) (rx : GReg) (an : AReg) (s : State) : Host.Outcome State Fault Refusal :=
  storeReg .byte (.index rx an) rs s

/-- `stbt Rs,(An)+` (R195, R173). -/
def execStbtPostInc (rs : GReg) (an : AReg) (s : State) : Host.Outcome State Fault Refusal :=
  storeReg .byte (.postInc an) rs s

/-- `stbt Rs,-(An)` (R195, R174). -/
def execStbtPreDec (rs : GReg) (an : AReg) (s : State) : Host.Outcome State Fault Refusal :=
  storeReg .byte (.preDec an) rs s

/-- `stbt Rs,(An)*` (R195, R175). -/
def execStbtPostUpd (rs : GReg) (an : AReg) (s : State) : Host.Outcome State Fault Refusal :=
  storeReg .byte (.postUpd an) rs s

/-- `stbt RGS,-(An)` (R196). -/
def execStbtRgs (sel : BitVec 7) (an : AReg) (s : State) : Host.Outcome State Fault Refusal :=
  storeRgs .byte sel an s

/-- `stsh Rs,DA8` (R197, R170). -/
def execStshDirect (rs : GReg) (da8 : BitVec 8) (s : State) : Host.Outcome State Fault Refusal :=
  storeReg .short (.direct da8) rs s

/-- `stsh Rs,(DO5S,An)` (R197, R171). -/
def execStshOffset (rs : GReg) (ofs : BitVec 5) (an : AReg) (s : State) : Host.Outcome State Fault Refusal :=
  storeReg .short (.offset ofs an) rs s

/-- `stsh Rs,(Rx,An)` (R197, R172). -/
def execStshIndex (rs : GReg) (rx : GReg) (an : AReg) (s : State) : Host.Outcome State Fault Refusal :=
  storeReg .short (.index rx an) rs s

/-- `stsh Rs,(An)+` (R197, R173). -/
def execStshPostInc (rs : GReg) (an : AReg) (s : State) : Host.Outcome State Fault Refusal :=
  storeReg .short (.postInc an) rs s

/-- `stsh Rs,-(An)` (R197, R174). -/
def execStshPreDec (rs : GReg) (an : AReg) (s : State) : Host.Outcome State Fault Refusal :=
  storeReg .short (.preDec an) rs s

/-- `stsh Rs,(An)*` (R197, R175). -/
def execStshPostUpd (rs : GReg) (an : AReg) (s : State) : Host.Outcome State Fault Refusal :=
  storeReg .short (.postUpd an) rs s

/-- `stsh RGS,-(An)` (R198). -/
def execStshRgs (sel : BitVec 7) (an : AReg) (s : State) : Host.Outcome State Fault Refusal :=
  storeRgs .short sel an s

end Sys2Proof.Machine
end

