-- ==== Sys2Proof/Machine/Logic.lean ====
section
/-! DEFINITION. Logic instructions (43_logic_shift_bit.md R250 to R253). -/

namespace Sys2Proof.Machine

/-- The bitwise and with result in `rd` and the parity flags (R250). -/
def andInto (s1 s0 : Word) (rd : GReg) (s : State) : Host.Outcome State Fault Refusal :=
  let r := s1 &&& s0
  done ((s.setReg rd r).setCc (andFlags r s.cc.c))

/-- `andb Rs0,Rs1,Rd` (R250). -/
def execAndb (rs0 : GReg) (rs1 : GReg) (rd : GReg) (s : State) : Host.Outcome State Fault Refusal :=
  andInto (s.reg rs1) (s.reg rs0) rd s

/-- `andb C8U,Rb` (R250). -/
def execAndbConst (c : BitVec 8) (rb : GReg) (s : State) : Host.Outcome State Fault Refusal :=
  andInto (s.reg rb) (c8u c) rb s

/-- `invt Rs,Rd` (R251). -/
def execInvt (rs : GReg) (rd : GReg) (s : State) : Host.Outcome State Fault Refusal :=
  done (s.setReg rd (~~~(s.reg rs)))

/-- `iorb Rs0,Rs1,Rd` (R252). -/
def execIorb (rs0 : GReg) (rs1 : GReg) (rd : GReg) (s : State) : Host.Outcome State Fault Refusal :=
  done (s.setReg rd (s.reg rs1 ||| s.reg rs0))

/-- `iorb C8U,Rb` (R252). -/
def execIorbConst (c : BitVec 8) (rb : GReg) (s : State) : Host.Outcome State Fault Refusal :=
  done (s.setReg rb (s.reg rb ||| c8u c))

/-- `xorb Rs0,Rs1,Rd` (R253). -/
def execXorb (rs0 : GReg) (rs1 : GReg) (rd : GReg) (s : State) : Host.Outcome State Fault Refusal :=
  done (s.setReg rd (s.reg rs1 ^^^ s.reg rs0))

end Sys2Proof.Machine
end

