-- ==== Sys2Proof/Machine/Moves.lean ====
section
/-! DEFINITION. Moves (41_load_store_move.md R201 to R210). -/

namespace Sys2Proof.Machine

/-- `move Rs,Rd` (R201). -/
def execMove (rs : GReg) (rd : GReg) (s : State) : Host.Outcome State Fault Refusal :=
  done (s.setReg rd (s.reg rs))

/-- `move C9S,Rd` (R202). -/
def execMoveConst (c9 : BitVec 9) (rd : GReg) (s : State) : Host.Outcome State Fault Refusal :=
  done (s.setReg rd (c9s c9))

/-- `mfsr SRs,Rd` (R203). -/
def execMfsr (srs : SReg) (rd : GReg) (s : State) : Host.Outcome State Fault Refusal :=
  done (s.setReg rd (s.sreg srs))

/-- `mtsr Rs,SRd` (R204). -/
def execMtsr (rs : GReg) (srd : SReg) (s : State) : Host.Outcome State Fault Refusal :=
  done (s.setSreg srd (s.reg rs))

/-- `mtsr C7U,CC` (R205). -/
def execMtsrConstCc (c7 : BitVec 7) (s : State) : Host.Outcome State Fault Refusal :=
  done (s.setSreg .cc (c7u c7))

/-- `mtsr C7U,CS` (R206). -/
def execMtsrConstCs (c7 : BitVec 7) (s : State) : Host.Outcome State Fault Refusal :=
  done (s.setSreg .cs (c7u c7))

/-- `mtsr C7UN,LC` (R207). -/
def execMtsrConstLc (c7 : BitVec 7) (s : State) : Host.Outcome State Fault Refusal :=
  done (s.setSreg .lc (c7un c7))

/-- `mtsr C7SN,AU` (R208). -/
def execMtsrConstAu (c7 : BitVec 7) (s : State) : Host.Outcome State Fault Refusal :=
  done (s.setSreg .au (c7sn c7))

/-- `mfdp Rd` (R209): the value the host drives on DBI, in either run state. -/
def execMfdp (rd : GReg) (s : State) : Host.Outcome State Fault Refusal :=
  done (s.setReg rd s.pins.dbi)

/-- `mtdp Rs` (R210). -/
def execMtdp (rs : GReg) (s : State) : Host.Outcome State Fault Refusal :=
  done { s with dbgo := s.reg rs }

end Sys2Proof.Machine
end

