-- ==== Sys2Proof/Machine/Multiply.lean ====
section
/-! DEFINITION. Multiply instructions (44_multiply.md R280 to R283). -/

namespace Sys2Proof.Machine

/-- `mlhs Rs0,Rs1,Rd` (R280): bits [31:16] of the exact signed product, rounding toward minus infinity. -/
def execMlhs (rs0 : GReg) (rs1 : GReg) (rd : GReg) (s : State) : Host.Outcome State Fault Refusal :=
  done (s.setReg rd (BitVec.ofInt 16 ((s.reg rs1).toInt * (s.reg rs0).toInt / 65536)))

/-- `mlhu Rs0,Rs1,Rd` (R281): bits [31:16] of the exact unsigned product. -/
def execMlhu (rs0 : GReg) (rs1 : GReg) (rd : GReg) (s : State) : Host.Outcome State Fault Refusal :=
  done (s.setReg rd (BitVec.ofNat 16 ((s.reg rs1).toNat * (s.reg rs0).toNat / 65536)))

/-- `mult Rs0,Rs1,Rd` (R282): the product modulo 2^16. -/
def execMult (rs0 : GReg) (rs1 : GReg) (rd : GReg) (s : State) : Host.Outcome State Fault Refusal :=
  done (s.setReg rd (s.reg rs1 * s.reg rs0))

end Sys2Proof.Machine
end

