-- ==== Sys2Proof/Machine/Shift.lean ====
section
/-! DEFINITION. Shift instructions; none writes a flag (43_logic_shift_bit.md R254 to R258). -/

namespace Sys2Proof.Machine

/-- Rotate left (R255): `(v << c) | (v >> (16 - c))`. -/
def rotateLeft (v : Word) (c : BitVec 4) : Word := v <<< c.toNat ||| v >>> (16 - c.toNat)

/-- Shift left, zero fill (R256). -/
def shiftLeft (v : Word) (c : BitVec 4) : Word := v <<< c.toNat

/-- Shift right, sign fill (R257). -/
def shiftRightSigned (v : Word) (c : BitVec 4) : Word := v.sshiftRight c.toNat

/-- Shift right, zero fill (R258). -/
def shiftRight (v : Word) (c : BitVec 4) : Word := v >>> c.toNat

/-- `shlf Rs0,Rs1,Rd` (R255, R254). -/
def execShlf (rs0 : GReg) (rs1 : GReg) (rd : GReg) (s : State) : Host.Outcome State Fault Refusal :=
  done (s.setReg rd (rotateLeft (s.reg rs1) (countOf (s.reg rs0))))

/-- `shlf SHC4,Rb` (R255, R254). -/
def execShlfConst (shc4 : BitVec 4) (rb : GReg) (s : State) : Host.Outcome State Fault Refusal :=
  done (s.setReg rb (rotateLeft (s.reg rb) shc4))

/-- `shlz Rs0,Rs1,Rd` (R256, R254). -/
def execShlz (rs0 : GReg) (rs1 : GReg) (rd : GReg) (s : State) : Host.Outcome State Fault Refusal :=
  done (s.setReg rd (shiftLeft (s.reg rs1) (countOf (s.reg rs0))))

/-- `shlz SHC4,Rb` (R256, R254). -/
def execShlzConst (shc4 : BitVec 4) (rb : GReg) (s : State) : Host.Outcome State Fault Refusal :=
  done (s.setReg rb (shiftLeft (s.reg rb) shc4))

/-- `shrs Rs0,Rs1,Rd` (R257, R254). -/
def execShrs (rs0 : GReg) (rs1 : GReg) (rd : GReg) (s : State) : Host.Outcome State Fault Refusal :=
  done (s.setReg rd (shiftRightSigned (s.reg rs1) (countOf (s.reg rs0))))

/-- `shrs SHC4,Rb` (R257, R254). -/
def execShrsConst (shc4 : BitVec 4) (rb : GReg) (s : State) : Host.Outcome State Fault Refusal :=
  done (s.setReg rb (shiftRightSigned (s.reg rb) shc4))

/-- `shru Rs0,Rs1,Rd` (R258, R254). -/
def execShru (rs0 : GReg) (rs1 : GReg) (rd : GReg) (s : State) : Host.Outcome State Fault Refusal :=
  done (s.setReg rd (shiftRight (s.reg rs1) (countOf (s.reg rs0))))

/-- `shru SHC4,Rb` (R258, R254). -/
def execShruConst (shc4 : BitVec 4) (rb : GReg) (s : State) : Host.Outcome State Fault Refusal :=
  done (s.setReg rb (shiftRight (s.reg rb) shc4))

end Sys2Proof.Machine
end

