-- ==== Sys2Proof/Machine/Dispatch.lean ====
section
/-! DEFINITION. The meaning of every instruction, by constructor. -/

namespace Sys2Proof.Machine

/-- One instruction: fetched from the instruction memory when the run state is `running`, injected when it is `stopped`
(60_exceptions.md R352 to R355). -/
def exec (i : Instr) (s : State) : Host.Outcome State Fault Refusal :=
  match i with
  -- load byte (R191, R192)
  | .ldbtDirect da8 rd => Sys2Proof.Machine.execLdbtDirect da8 rd s
  | .ldbtOffset ofs an rd => Sys2Proof.Machine.execLdbtOffset ofs an rd s
  | .ldbtIndex rx an rd => Sys2Proof.Machine.execLdbtIndex rx an rd s
  | .ldbtPostInc an rd => Sys2Proof.Machine.execLdbtPostInc an rd s
  | .ldbtPreDec an rd => Sys2Proof.Machine.execLdbtPreDec an rd s
  | .ldbtPostUpd an rd => Sys2Proof.Machine.execLdbtPostUpd an rd s
  | .ldbtRgs an sel => Sys2Proof.Machine.execLdbtRgs an sel s
  -- load short (R193, R194)
  | .ldshDirect da8 rd => Sys2Proof.Machine.execLdshDirect da8 rd s
  | .ldshOffset ofs an rd => Sys2Proof.Machine.execLdshOffset ofs an rd s
  | .ldshIndex rx an rd => Sys2Proof.Machine.execLdshIndex rx an rd s
  | .ldshPostInc an rd => Sys2Proof.Machine.execLdshPostInc an rd s
  | .ldshPreDec an rd => Sys2Proof.Machine.execLdshPreDec an rd s
  | .ldshPostUpd an rd => Sys2Proof.Machine.execLdshPostUpd an rd s
  | .ldshRgs an sel => Sys2Proof.Machine.execLdshRgs an sel s
  -- store byte (R195, R196)
  | .stbtDirect rs da8 => Sys2Proof.Machine.execStbtDirect rs da8 s
  | .stbtOffset rs ofs an => Sys2Proof.Machine.execStbtOffset rs ofs an s
  | .stbtIndex rs rx an => Sys2Proof.Machine.execStbtIndex rs rx an s
  | .stbtPostInc rs an => Sys2Proof.Machine.execStbtPostInc rs an s
  | .stbtPreDec rs an => Sys2Proof.Machine.execStbtPreDec rs an s
  | .stbtPostUpd rs an => Sys2Proof.Machine.execStbtPostUpd rs an s
  | .stbtRgs sel an => Sys2Proof.Machine.execStbtRgs sel an s
  -- store short (R197, R198)
  | .stshDirect rs da8 => Sys2Proof.Machine.execStshDirect rs da8 s
  | .stshOffset rs ofs an => Sys2Proof.Machine.execStshOffset rs ofs an s
  | .stshIndex rs rx an => Sys2Proof.Machine.execStshIndex rs rx an s
  | .stshPostInc rs an => Sys2Proof.Machine.execStshPostInc rs an s
  | .stshPreDec rs an => Sys2Proof.Machine.execStshPreDec rs an s
  | .stshPostUpd rs an => Sys2Proof.Machine.execStshPostUpd rs an s
  | .stshRgs sel an => Sys2Proof.Machine.execStshRgs sel an s
  -- jumps with an absolute address (R310, R311)
  | .jumpIa12 ia12 => Sys2Proof.Machine.execJumpIa12 ia12 s
  | .jpsrIa12 ia12 => Sys2Proof.Machine.execJpsrIa12 ia12 s
  -- branches (R292 to R307)
  | .brnc io8 => Sys2Proof.Machine.execBrnc io8 s
  | .brcr io8 => Sys2Proof.Machine.execBrcr io8 s
  | .brno io8 => Sys2Proof.Machine.execBrno io8 s
  | .brof io8 => Sys2Proof.Machine.execBrof io8 s
  | .brnz io8 => Sys2Proof.Machine.execBrnz io8 s
  | .brzr io8 => Sys2Proof.Machine.execBrzr io8 s
  | .brps io8 => Sys2Proof.Machine.execBrps io8 s
  | .brng io8 => Sys2Proof.Machine.execBrng io8 s
  | .brls io8 => Sys2Proof.Machine.execBrls io8 s
  | .brhi io8 => Sys2Proof.Machine.execBrhi io8 s
  | .brlo io8 => Sys2Proof.Machine.execBrlo io8 s
  | .brge io8 => Sys2Proof.Machine.execBrge io8 s
  | .brle io8 => Sys2Proof.Machine.execBrle io8 s
  | .brgt io8 => Sys2Proof.Machine.execBrgt io8 s
  | .bral io8 => Sys2Proof.Machine.execBral io8 s
  | .brlc io8 => Sys2Proof.Machine.execBrlc io8 s
  -- the flow control group without a register (R308 to R321)
  | .siah iah4 => Sys2Proof.Machine.execSiah iah4 s
  | .jumpTa => Sys2Proof.Machine.execJumpTa s
  | .jpsrTa => Sys2Proof.Machine.execJpsrTa s
  | .rtsr => Sys2Proof.Machine.execRtsr s
  | .rtir => Sys2Proof.Machine.execRtir s
  | .stop => Sys2Proof.Machine.execStop s
  | .svpc => Sys2Proof.Machine.execSvpc s
  | .rspc => Sys2Proof.Machine.execRspc s
  | .stie => Sys2Proof.Machine.execStie s
  | .clie => Sys2Proof.Machine.execClie s
  | .rsie => Sys2Proof.Machine.execRsie s
  | .scie => Sys2Proof.Machine.execScie s
  | .stas => Sys2Proof.Machine.execStas s
  | .clas => Sys2Proof.Machine.execClas s
  -- forms with a constant of 8 or 9 bits (R121)
  | .moveConst c9s rd => Sys2Proof.Machine.execMoveConst c9s rd s
  | .addh c16 rb => Sys2Proof.Machine.execAddh c16 rb s
  | .subfConst c8un rb => Sys2Proof.Machine.execSubfConst c8un rb s
  | .addtConst c8un rb => Sys2Proof.Machine.execAddtConst c8un rb s
  | .andbConst c8u rb => Sys2Proof.Machine.execAndbConst c8u rb s
  | .iorbConst c8u rb => Sys2Proof.Machine.execIorbConst c8u rb s
  | .compPos c8a rs1 => Sys2Proof.Machine.execCompPos c8a rs1 s
  -- prefix 00 (R122)
  | .subf rs0 rs1 rd => Sys2Proof.Machine.execSubf rs0 rs1 rd s
  | .addt rs0 rs1 rd => Sys2Proof.Machine.execAddt rs0 rs1 rd s
  | .subc rs0 rs1 rd => Sys2Proof.Machine.execSubc rs0 rs1 rd s
  | .addc rs0 rs1 rd => Sys2Proof.Machine.execAddc rs0 rs1 rd s
  | .mult rs0 rs1 rd => Sys2Proof.Machine.execMult rs0 rs1 rd s
  | .andb rs0 rs1 rd => Sys2Proof.Machine.execAndb rs0 rs1 rd s
  | .iorb rs0 rs1 rd => Sys2Proof.Machine.execIorb rs0 rs1 rd s
  | .xorb rs0 rs1 rd => Sys2Proof.Machine.execXorb rs0 rs1 rd s
  -- prefix 01 (R123)
  | .shlz rs0 rs1 rd => Sys2Proof.Machine.execShlz rs0 rs1 rd s
  | .shru rs0 rs1 rd => Sys2Proof.Machine.execShru rs0 rs1 rd s
  | .shlf rs0 rs1 rd => Sys2Proof.Machine.execShlf rs0 rs1 rd s
  | .shrs rs0 rs1 rd => Sys2Proof.Machine.execShrs rs0 rs1 rd s
  | .btcl rs0 rs1 rd => Sys2Proof.Machine.execBtcl rs0 rs1 rd s
  | .btts rs0 rs1 => Sys2Proof.Machine.execBtts rs0 rs1 s
  | .btst rs0 rs1 rd => Sys2Proof.Machine.execBtst rs0 rs1 rd s
  | .bttg rs0 rs1 rd => Sys2Proof.Machine.execBttg rs0 rs1 rd s
  -- prefix 10 (R124)
  | .mlhu rs0 rs1 rd => Sys2Proof.Machine.execMlhu rs0 rs1 rd s
  | .mlhs rs0 rs1 rd => Sys2Proof.Machine.execMlhs rs0 rs1 rd s
  | .comp rs0 rs1 => Sys2Proof.Machine.execComp rs0 rs1 s
  | .cmpc rs0 rs1 => Sys2Proof.Machine.execCmpc rs0 rs1 s
  | .compNeg c8a rs1 => Sys2Proof.Machine.execCompNeg c8a rs1 s
  | .adsp c7sn ad => Sys2Proof.Machine.execAdsp c7sn ad s
  | .mtsrConstCc c7u => Sys2Proof.Machine.execMtsrConstCc c7u s
  | .mtsrConstCs c7u => Sys2Proof.Machine.execMtsrConstCs c7u s
  | .mtsrConstLc c7un => Sys2Proof.Machine.execMtsrConstLc c7un s
  | .mtsrConstAu c7sn => Sys2Proof.Machine.execMtsrConstAu c7sn s
  -- prefix 11, constant count or index (R125)
  | .shlzConst shc4 rb => Sys2Proof.Machine.execShlzConst shc4 rb s
  | .shruConst shc4 rb => Sys2Proof.Machine.execShruConst shc4 rb s
  | .shlfConst shc4 rb => Sys2Proof.Machine.execShlfConst shc4 rb s
  | .shrsConst shc4 rb => Sys2Proof.Machine.execShrsConst shc4 rb s
  | .btclConst bti4 rb => Sys2Proof.Machine.execBtclConst bti4 rb s
  | .bttsConst bti4 rs => Sys2Proof.Machine.execBttsConst bti4 rs s
  | .btstConst bti4 rb => Sys2Proof.Machine.execBtstConst bti4 rb s
  | .bttgConst bti4 rb => Sys2Proof.Machine.execBttgConst bti4 rb s
  -- prefix 11, dyadic (R125)
  | .move rs rd => Sys2Proof.Machine.execMove rs rd s
  | .negt rs rd => Sys2Proof.Machine.execNegt rs rd s
  | .absl rs rd => Sys2Proof.Machine.execAbsl rs rd s
  | .invt rs rd => Sys2Proof.Machine.execInvt rs rd s
  | .clzr rs rd => Sys2Proof.Machine.execClzr rs rd s
  | .sxbt rs rd => Sys2Proof.Machine.execSxbt rs rd s
  | .sxsh rs rd => Sys2Proof.Machine.execSxsh rs rd s
  | .sbcf rs rd => Sys2Proof.Machine.execSbcf rs rd s
  | .adcf rs rd => Sys2Proof.Machine.execAdcf rs rd s
  | .cpcf rs => Sys2Proof.Machine.execCpcf rs s
  | .mfdp rd => Sys2Proof.Machine.execMfdp rd s
  | .mtdp rs => Sys2Proof.Machine.execMtdp rs s
  | .mfsr srs rd => Sys2Proof.Machine.execMfsr srs rd s
  | .mtsr rs srd => Sys2Proof.Machine.execMtsr rs srd s

end Sys2Proof.Machine
end

