-- ==== Sys2Proof/Machine/Boundary.lean ====
section
/-! DEFINITION. What happens at one instruction boundary: reset, then a stop request, then an interrupt, then an
instruction (60_exceptions.md R334 to R341, R350 to R357, 70_reset_and_hazards.md R370). -/

namespace Sys2Proof.Machine

/-- Decode and execute one opcode word; a word that is no instruction is refused by name (R128). -/
def runWord (op : Word) (s : State) : Host.Outcome State Fault Refusal :=
  match decode s.cfg.enc op with
  | .ok i => exec i s
  | .error e => .refused (DecodeReject.refusal e)

/-- A running processor at a boundary: stop request before interrupt before fetch (R341). -/
def runningBoundary (s : State) : Host.Outcome State Fault Refusal :=
  if s.pins.strq then .next ({ s with run := .stopped }.nextBoundary false)
  else if s.acknowledges then .next ((s.takeInterrupt s.pins.irn).nextBoundary true)
  else mapNext (fun t => (t.noteExecuted s.pc).nextBoundary false) (runWord s.fetched s)

/-- A stopped processor at a boundary: it fetches nothing and acknowledges no interrupt (R352, R357). -/
def stoppedBoundary (s : State) : Host.Outcome State Fault Refusal :=
  match s.pins.debug with
  | .wait => .next (s.nextBoundary false)
  | .inject op => mapNext (fun t => t.nextBoundary false) (runWord op s)
  | .resume => .next ({ s with run := .running }.nextBoundary false)

/-- A boundary once the host's direct memory accesses are done; reset overrides everything (R341, R370). -/
def boundary (s : State) : Host.Outcome State Fault Refusal :=
  if s.pins.reset then .next (s.takeReset.nextBoundary false)
  else
    match s.run with
    | .running => runningBoundary s
    | .stopped => stoppedBoundary s

end Sys2Proof.Machine
end

