-- ==== Sys2Proof/Machine/Step.lean ====
section
/-! DEFINITION. One step of the machine, and placing a word where the next step fetches it. -/

namespace Sys2Proof.Machine

/-- One step: the host's direct memory accesses, then one event of the boundary (60_exceptions.md R335, R341, R363). -/
def step (s : State) : Host.Outcome State Fault Refusal := boundary s.hostWrites

/-- The state whose next step fetches and runs the instruction in the `nbits` low bits of `w`: the word stands at pc in
the instruction memory (R71), the processor runs and the host does nothing at this boundary. -/
def State.withFetchWord (s : State) (nbits w : Nat) : State :=
  s.undisturbed.writeCode s.pc (BitVec.ofNat 16 (w % 2 ^ nbits))

end Sys2Proof.Machine
end

