-- ==== Sys2Proof/Safety.lean ====
section
/-! DEFINITION. The terms in which statements speak of a run: the components of the state and what leaves them alone, the
bytes of memory and what leaves them alone, and the instructions at which the spec says `refuse`
(93_implementation_defined.md section 3). -/

namespace Sys2Proof.Machine

/-! ## Frames -/

/-- A component of the state that a step may write, other than pc and the two memories; `host` stands for IACK, the
host's lines and its script. -/
inductive Part where
  | reg (r : GReg)
  | cc | ivtp | ir | ie | save | sel
  | lc | au | sp | ta | sa
  | ira | ccs | iah | iahs
  | run | dbgo | lastPc | host
  deriving DecidableEq, Repr

/-- Every component outside the list is the same in both states, and so are the parameters and the count of draws. pc
and the memories are said separately. -/
structure Unchanged (parts : List Part) (s t : State) : Prop where
  reg : ∀ r, Part.reg r ∉ parts → t.reg r = s.reg r
  cc : Part.cc ∉ parts → t.cc = s.cc
  ivtp : Part.ivtp ∉ parts → t.cs.ivtp = s.cs.ivtp
  ir : Part.ir ∉ parts → t.cs.ir = s.cs.ir
  ie : Part.ie ∉ parts → t.cs.ie = s.cs.ie
  save : Part.save ∉ parts → t.cs.save = s.cs.save
  sel : Part.sel ∉ parts → t.cs.sel = s.cs.sel
  lc : Part.lc ∉ parts → t.lc = s.lc
  au : Part.au ∉ parts → t.au = s.au
  sp : Part.sp ∉ parts → t.sp = s.sp
  ta : Part.ta ∉ parts → t.ta = s.ta
  sa : Part.sa ∉ parts → t.sa = s.sa
  ira : Part.ira ∉ parts → t.ira = s.ira
  ccs : Part.ccs ∉ parts → t.ccs = s.ccs
  iah : Part.iah ∉ parts → t.iah = s.iah
  iahs : Part.iahs ∉ parts → t.iahs = s.iahs
  run : Part.run ∉ parts → t.run = s.run
  dbgo : Part.dbgo ∉ parts → t.dbgo = s.dbgo
  lastPc : Part.lastPc ∉ parts → t.lastPc = s.lastPc
  host : Part.host ∉ parts → t.iack = s.iack ∧ t.pins = s.pins ∧ t.inputs = s.inputs
  cfg : t.cfg = s.cfg
  draws : t.draws = s.draws

/-- Every byte of the data space and every opcode word reads as before. -/
structure SameMemory (s t : State) : Prop where
  byte : ∀ a, t.readByte a = s.readByte a
  code : ∀ a, t.readCode a = s.readCode a

/-- Two data addresses name one byte: they are equal, or a platform maps one byte of the instruction memory to both
(R88). Without a mapping each address has its own byte (`State.sameByte_iff_eq`). -/
abbrev State.sameByte (s : State) (a b : Word) : Prop :=
  a = b ∨ ((s.aliased a).isSome = true ∧ s.aliased a = s.aliased b)

/-- No two of the addresses name one byte. -/
abbrev State.separate (s : State) (bytes : List Word) : Prop := bytes.Pairwise fun a b => ¬ s.sameByte a b

/-- A data address aliases a byte of an opcode word (R71, R88). -/
abbrev State.inWord (s : State) (a w : Word) : Prop :=
  s.aliased a = some (2 * w.toNat) ∨ s.aliased a = some (2 * w.toNat + 1)

/-- Every byte of the data space that is none of the listed ones reads as before, and so does every opcode word of which
no byte is mapped to a listed address (R88). -/
structure StoresOnly (bytes : List Word) (s t : State) : Prop where
  byte : ∀ a, (∀ b ∈ bytes, ¬ s.sameByte a b) → t.readByte a = s.readByte a
  code : ∀ w : Word, (∀ a ∈ bytes, ¬ s.inWord a w) → t.readCode w = s.readCode w

/-- The address after an instruction that ends sequentially: pc + 1 when running (R290), pc when injected (R354). -/
def nextPc (s : State) : Word :=
  match s.run with
  | .running => s.pc + 1
  | .stopped => s.pc

/-- An instruction that ends sequentially, writes at most the listed components, and stores nothing. -/
structure Sequential (parts : List Part) (s t : State) : Prop where
  pc : t.pc = nextPc s
  frame : Unchanged parts s t
  memory : SameMemory s t

/-- The instruction puts this value in a general register, ends sequentially and changes nothing else. -/
def Yields (i : Instr) (s : State) (rd : GReg) (v : Word) : Prop :=
  ∃ t, exec i s = .next t ∧ t.reg rd = v ∧ Sequential [.reg rd] s t

/-- The component that an address register is (R23). -/
def AReg.part : AReg → Part
  | .sp => .sp | .ta => .ta | .r6 => .reg .r6 | .r7 => .reg .r7

/-- The components that an addressing mode updates (R176). -/
def Mode.parts : Mode → List Part
  | .direct _ | .offset _ _ | .index _ _ => []
  | .postInc an | .preDec an | .postUpd an => [AReg.part an]

/-- The component that a register slot is (R169). -/
def Slot.part : Slot → Part
  | .gp r => .reg r | .sa => .sa | .ta => .ta

/-! ## Numbers -/

/-- The exact sum of two unsigned words and a carry. -/
def exactSum (s1 s0 : Word) (cin : Bool) : Nat := s1.toNat + s0.toNat + cin.toNat

/-- The flags of an addition in numbers (R220): the carry out of bit 15, the signed sum out of range, the result zero
(and Z set before, where `zIn` is the old Z), the result negative. -/
def sumFlags (s1 s0 : Word) (cin zIn : Bool) : Flags where
  c := decide (65536 ≤ exactSum s1 s0 cin)
  o := decide (s1.toInt + s0.toInt + cin.toNat < -32768 ∨ 32767 < s1.toInt + s0.toInt + cin.toNat)
  z := zIn && decide (exactSum s1 s0 cin % 65536 = 0)
  n := decide (32768 ≤ exactSum s1 s0 cin % 65536)

/-- The exact difference of two unsigned words and a borrow. -/
def exactDifference (s1 s0 : Word) (bin : Bool) : Int := (s1.toNat : Int) - s0.toNat - bin.toNat

/-- The flags of a subtraction in numbers (R221): the borrow, the signed difference out of range, the result zero (and Z
set before), the result negative. -/
def differenceFlags (s1 s0 : Word) (bin zIn : Bool) : Flags where
  c := decide (s1.toNat < s0.toNat + bin.toNat)
  o := decide (s1.toInt - s0.toInt - bin.toNat < -32768 ∨ 32767 < s1.toInt - s0.toInt - bin.toNat)
  z := zIn && decide (exactDifference s1 s0 bin % 65536 = 0)
  n := decide (32768 ≤ exactDifference s1 s0 bin % 65536)

/-- How many bits of a word are set. -/
def setBits (w : Word) : Nat := ((List.range 16).filter fun j => w.getLsbD j).length

/-- The target of a taken branch (R291): the branch's own address plus the signed offset, modulo 2^16. -/
def branchTarget (pc : Word) (io8 : BitVec 8) : Word := BitVec.ofInt 16 (pc.toNat + io8.toInt)

/-- The value of a not-including-zero constant field of seven bits, signed (R152). -/
def signedNonzero (f : BitVec 7) : Int := if f = 0 then 64 else f.toInt

/-- op[3] of a load or store: the size (R104). -/
def Size.bit : Size → BitVec 1
  | .byte => 0
  | .short => 1

/-- What a store of a size keeps of a register's value, as a load of that size gives it back (R75). -/
def Size.kept (z : Size) (v : Word) : Word :=
  match z with
  | .byte => 0#8 ++ v.extractLsb' 0 8
  | .short => v

/-! ## Groups of instructions -/

/-- The single-register loads by size and mode (R191, R193). -/
def loadForm : Size → Mode → GReg → Instr
  | .byte, .direct f, rd => .ldbtDirect f rd
  | .byte, .offset o an, rd => .ldbtOffset o an rd
  | .byte, .index rx an, rd => .ldbtIndex rx an rd
  | .byte, .postInc an, rd => .ldbtPostInc an rd
  | .byte, .preDec an, rd => .ldbtPreDec an rd
  | .byte, .postUpd an, rd => .ldbtPostUpd an rd
  | .short, .direct f, rd => .ldshDirect f rd
  | .short, .offset o an, rd => .ldshOffset o an rd
  | .short, .index rx an, rd => .ldshIndex rx an rd
  | .short, .postInc an, rd => .ldshPostInc an rd
  | .short, .preDec an, rd => .ldshPreDec an rd
  | .short, .postUpd an, rd => .ldshPostUpd an rd

/-- The single-register stores by size and mode (R195, R197). -/
def storeForm : Size → Mode → GReg → Instr
  | .byte, .direct f, rs => .stbtDirect rs f
  | .byte, .offset o an, rs => .stbtOffset rs o an
  | .byte, .index rx an, rs => .stbtIndex rs rx an
  | .byte, .postInc an, rs => .stbtPostInc rs an
  | .byte, .preDec an, rs => .stbtPreDec rs an
  | .byte, .postUpd an, rs => .stbtPostUpd rs an
  | .short, .direct f, rs => .stshDirect rs f
  | .short, .offset o an, rs => .stshOffset rs o an
  | .short, .index rx an, rs => .stshIndex rs rx an
  | .short, .postInc an, rs => .stshPostInc rs an
  | .short, .preDec an, rs => .stshPreDec rs an
  | .short, .postUpd an, rs => .stshPostUpd rs an

/-- `ldbt (An)+,RGS` and `ldsh (An)+,RGS` (R192, R194). -/
def loadRgsForm : Size → AReg → BitVec 7 → Instr
  | .byte, an, sel => .ldbtRgs an sel
  | .short, an, sel => .ldshRgs an sel

/-- `stbt RGS,-(An)` and `stsh RGS,-(An)` (R196, R198). -/
def storeRgsForm : Size → BitVec 7 → AReg → Instr
  | .byte, sel, an => .stbtRgs sel an
  | .short, sel, an => .stshRgs sel an

/-- The instructions that R355 names: branches, `brlc`, `jump`, `jpsr`, `rtsr`, `rtir`. -/
def isTransfer : Instr → Bool
  | .brnc _ | .brcr _ | .brno _ | .brof _ | .brnz _ | .brzr _ | .brps _ | .brng _
  | .brls _ | .brhi _ | .brlo _ | .brge _ | .brle _ | .brgt _ | .bral _ | .brlc _
  | .jumpTa | .jumpIa12 _ | .jpsrTa | .jpsrIa12 _ | .rtsr | .rtir => true
  | _ => false

/-- The instructions that write the data memory. -/
def isStore : Instr → Bool
  | .stbtDirect _ _ | .stbtOffset _ _ _ | .stbtIndex _ _ _ | .stbtPostInc _ _ | .stbtPreDec _ _
  | .stbtPostUpd _ _ | .stbtRgs _ _ | .stshDirect _ _ | .stshOffset _ _ _ | .stshIndex _ _ _
  | .stshPostInc _ _ | .stshPreDec _ _ | .stshPostUpd _ _ | .stshRgs _ _ => true
  | _ => false

/-- A load that writes its own address register twice (R199). -/
def loadsItsAddress : Instr → Bool
  | .ldbtPostInc an rd | .ldbtPreDec an rd | .ldbtPostUpd an rd
  | .ldshPostInc an rd | .ldshPreDec an rd | .ldshPostUpd an rd => AReg.isReg an rd
  | .ldbtRgs an sel => (an == .r6) && sel.getLsbD 6
  | .ldshRgs an sel => ((an == .r6) && sel.getLsbD 6) || ((an == .ta) && sel.getLsbD 1)
  | _ => false

/-- The instructions that write CC (R30): eleven by their flag rules, the moves to CC, `rtir`. -/
def writesCc : Instr → Bool
  | .addt _ _ _ | .addtConst _ _ | .addc _ _ _ | .adcf _ _ | .subf _ _ _ | .subfConst _ _ | .subc _ _ _ | .sbcf _ _
  | .comp _ _ | .compPos _ _ | .compNeg _ _ | .cmpc _ _ | .cpcf _ | .andb _ _ _ | .andbConst _ _ | .btts _ _
  | .bttsConst _ _ | .mtsrConstCc _ | .rtir => true
  | .mtsr _ k => k == .cc
  | _ => false

/-- The component that a move to a special register writes (R31, R36 to R42). -/
def SReg.written (s : State) : SReg → List Part
  | .cc => [.cc] | .cs => [.ivtp] | .lc => [.lc] | .au => [.au] | .sp => [.sp] | .ta => [.ta]
  | .sa => if s.cs.sel then [.ira] else [.sa]
  | .id => []

/-- The special, hidden and control state other than CC that an instruction may write, by the sentences of 10_state.md
that name the writers of each register (R31 to R48, R49, R51), the address register of an updating mode and a register
selection (R176, R169) included. -/
def writesSpecial (s : State) : Instr → List Part
  | .mtsr _ k => SReg.written s k
  | .mtsrConstCs _ => [.ivtp]
  | .mtsrConstLc _ | .brlc _ => [.lc]
  | .mtsrConstAu _ => [.au]
  | .stie | .clie | .rsie => [.ie]
  | .scie => [.ie, .save]
  | .stas | .clas => [.sel]
  | .jpsrTa => [.sa]
  | .siah _ | .jumpIa12 _ => [.iah]
  | .jpsrIa12 _ => [.sa, .iah]
  | .rtir => [.ir, .iah]
  | .mtdp _ | .svpc => [.dbgo]
  | .stop => [.run]
  | .adsp _ an => [AReg.part an]
  | .ldbtPostInc an _ | .ldbtPreDec an _ | .ldbtPostUpd an _ => [AReg.part an]
  | .ldshPostInc an _ | .ldshPreDec an _ | .ldshPostUpd an _ => [AReg.part an]
  | .stbtPostInc _ an | .stbtPreDec _ an | .stbtPostUpd _ an => [AReg.part an]
  | .stshPostInc _ an | .stshPreDec _ an | .stshPostUpd _ an => [AReg.part an]
  | .stbtRgs _ an | .stshRgs _ an => [AReg.part an]
  | .ldbtRgs an sel => AReg.part an :: (selected .byte sel).map Slot.part
  | .ldshRgs an sel => AReg.part an :: (selected .short sel).map Slot.part
  | _ => []

/-- The destination register of an instruction whose operands name one (R163, R164). -/
def destination : Instr → List GReg
  | .ldbtDirect _ rd | .ldbtOffset _ _ rd | .ldbtIndex _ _ rd | .ldbtPostInc _ rd | .ldbtPreDec _ rd
  | .ldbtPostUpd _ rd | .ldshDirect _ rd | .ldshOffset _ _ rd | .ldshIndex _ _ rd | .ldshPostInc _ rd
  | .ldshPreDec _ rd | .ldshPostUpd _ rd => [rd]
  | .move _ rd | .moveConst _ rd | .mfsr _ rd | .mfdp rd => [rd]
  | .absl _ rd | .adcf _ rd | .addc _ _ rd | .addh _ rd | .addt _ _ rd | .addtConst _ rd | .clzr _ rd | .negt _ rd
  | .sbcf _ rd | .subc _ _ rd | .subf _ _ rd | .subfConst _ rd | .sxbt _ rd | .sxsh _ rd => [rd]
  | .andb _ _ rd | .andbConst _ rd | .invt _ rd | .iorb _ _ rd | .iorbConst _ rd | .xorb _ _ rd => [rd]
  | .shlf _ _ rd | .shlfConst _ rd | .shlz _ _ rd | .shlzConst _ rd | .shrs _ _ rd | .shrsConst _ rd | .shru _ _ rd
  | .shruConst _ rd => [rd]
  | .btcl _ _ rd | .btclConst _ rd | .btst _ _ rd | .btstConst _ rd | .bttg _ _ rd | .bttgConst _ rd => [rd]
  | .mlhs _ _ rd | .mlhu _ _ rd | .mult _ _ rd => [rd]
  | _ => []

/-- Everything but pc and memory that an instruction may write. -/
def mayWrite (s : State) (i : Instr) : List Part :=
  (if writesCc i then [.cc] else []) ++ (destination i).map Part.reg ++ writesSpecial s i

/-- The refusal that the spec names for an instruction in a state, if it names one: the five points of
93_implementation_defined.md section 3 less the one about words that are no instruction. -/
def refusalOf (i : Instr) (s : State) : Option Refusal :=
  if !i.wf then some .emptyRgs
  else if loadsItsAddress i then some .loadIntoAddressRegister
  else if isTransfer i && s.run == .stopped then some .injectedControlTransfer
  else if i = .rtir && !s.cs.ir then some .rtirOutsideInterrupt
  else none

end Sys2Proof.Machine
end

