-- ==== Sys2Proof/Certificates/Slice0/Obligations.lean ====
section
/-! DEFINITION. The statements about the model. Each docstring names the rules of spec/ it rests on. Statements about a
next state conclude that the instruction answers one; `Sequential` and `Unchanged` (Safety.lean) are their frames. -/

open Sys2Proof Sys2Proof.Machine

/-! ## Encoding -/

/-- Decoding the word of a well-formed instruction gives the instruction, under every choice of the encoding
parameters (R101, R103, R110 to R125, R130). -/
def Obligations.DecodeOfEncode : Prop :=
  ∀ (e : Encoding) (i : Instr), i.wf = true → decode e (encode e i) = .ok i

/-- The converse round trip, encoding what decodes: every word that decodes is the word of the instruction it decodes to,
so that no bit of a word is dropped, and that instruction is well-formed (R101, R128). That a word with another value
in a fixed bit is no instruction, and that a word of an empty register selection is none, are the spec's decisions D28
and D21 (notes/assumptions/14.md). -/
def Obligations.EncodeOfDecode : Prop :=
  ∀ (e : Encoding) (op : Word) (i : Instr), decode e op = .ok i → encode e i = op ∧ i.wf = true

/-- The bits of the load and store words, written from R110 to R116. That a word of an empty register selection is no
instruction (R116) is the spec's decision D21 (notes/assumptions/14.md). -/
def Obligations.LoadStoreWords : Prop :=
  ∀ (e : Encoding) (z : Size) (r rx : GReg) (an : AReg) (f : BitVec 8) (ofs : BitVec 5) (sel : BitVec 7),
    (∀ p ∈ [(0#1, loadForm z), (1#1, storeForm z)],
      encode e (p.2 (.direct f) r) = f.extractLsb' 0 5 ++ f.extractLsb' 5 3 ++ r.num ++ p.1 ++ z.bit ++ 0b000#3 ∧
      encode e (p.2 (.offset ofs an) r) = ofs ++ 0#1 ++ an.num e ++ r.num ++ p.1 ++ z.bit ++ 0b100#3 ∧
      encode e (p.2 (.index rx an) r) = 0b00#2 ++ rx.num ++ 1#1 ++ an.num e ++ r.num ++ p.1 ++ z.bit ++ 0b100#3 ∧
      encode e (p.2 (.postInc an) r) = 0b010001#6 ++ an.num e ++ r.num ++ p.1 ++ z.bit ++ 0b100#3 ∧
      encode e (p.2 (.preDec an) r) = 0b010011#6 ++ an.num e ++ r.num ++ p.1 ++ z.bit ++ 0b100#3 ∧
      encode e (p.2 (.postUpd an) r) = 0b010101#6 ++ an.num e ++ r.num ++ p.1 ++ z.bit ++ 0b100#3) ∧
    encode e (loadRgsForm z an sel) =
      1#1 ++ sel.extractLsb' 3 4 ++ 1#1 ++ an.num e ++ sel.extractLsb' 0 3 ++ 0#1 ++ z.bit ++ 0b100#3 ∧
    encode e (storeRgsForm z sel an) =
      1#1 ++ sel.extractLsb' 0 1 ++ sel.extractLsb' 1 1 ++ sel.extractLsb' 2 1 ++ sel.extractLsb' 3 1 ++ 1#1 ++ an.num e ++
        sel.extractLsb' 4 1 ++ sel.extractLsb' 5 1 ++ sel.extractLsb' 6 1 ++ 1#1 ++ z.bit ++ 0b100#3 ∧
    decode e (encode e (loadRgsForm z an 0)) = .error .emptyRgs ∧
    decode e (encode e (storeRgsForm z 0 an)) = .error .emptyRgs

/-- The bits of the flow control words and of the constant-and-register words, written from R117 to R121, and from R130
where the rows are lost: the three candidates of `svpc` and the one candidate, op[4:0] = 11011, of `iorb C8U,Rb` are the
spec's decision D25 (notes/assumptions/2.md). -/
def Obligations.FlowAndConstantWords : Prop :=
  ∀ (e : Encoding) (f : BitVec 8) (a : BitVec 12) (c : BitVec 9) (h : BitVec 4) (r : GReg),
    encode e (.jumpIa12 a) = a ++ 0b0001#4 ∧ encode e (.jpsrIa12 a) = a ++ 0b1001#4 ∧
    (∀ p ∈ [(.brnc f, 0b00010101#8), (.brcr f, 0b00110101#8), (.brno f, 0b01010101#8), (.brof f, 0b01110101#8),
        (.brnz f, 0b10010101#8), (.brzr f, 0b10110101#8), (.brps f, 0b11010101#8), (.brng f, 0b11110101#8),
        (.brls f, 0b00011101#8), (.brhi f, 0b00111101#8), (.brlo f, 0b01011101#8), (.brge f, 0b01111101#8),
        (.brle f, 0b10011101#8), (.brgt f, 0b10111101#8), (.bral f, 0b11011101#8), (.brlc f, 0b11111101#8)],
      encode e p.1 = f ++ p.2) ∧
    encode e (.siah h) = 0b0000000#7 ++ h ++ 0b00101#5 ∧
    encode e .jumpTa = 0x000D ∧ encode e .jpsrTa = 0x002D ∧ encode e .rtsr = 0x004D ∧ encode e .rtir = 0x006D ∧
    encode e .stop = 0x008D ∧ encode e .rspc = 0x00ED ∧ encode e .stie = 0x010D ∧ encode e .clie = 0x012D ∧
    encode e .rsie = 0x014D ∧ encode e .scie = 0x016D ∧ encode e .stas = 0x018D ∧ encode e .clas = 0x01AD ∧
    encode e .svpc = (match e.svpc with | .code0110 => 0x00CD | .code1110 => 0x01CD | .code1111 => 0x01ED) ∧
    encode e (.moveConst c r) = c.extractLsb' 0 8 ++ r.num ++ c.extractLsb' 8 1 ++ 0b0011#4 ∧
    (∀ p ∈ [(.addh f r, 0b00111#5), (.subfConst f r, 0b01011#5), (.addtConst f r, 0b01111#5), (.andbConst f r, 0b10111#5),
        (.iorbConst f r, 0b11011#5), (.compPos f r, 0b11111#5)],
      encode e p.1 = f ++ r.num ++ p.2)

/-- The bits of the register words, written from R122 to R125 and R127, with the parameters of R130 in their places. The
candidates of the lost rows, and `subc` at op[4:0] = 01010, are the spec's decision D25 (notes/assumptions/2.md). -/
def Obligations.RegisterWords : Prop :=
  ∀ (e : Encoding) (s t d : GReg) (k : BitVec 4) (c : BitVec 7) (c6 : BitVec 6) (an : AReg) (sr : SReg),
    (∀ p ∈ [(.subf s t d, 0b00#2, 0b00010#5), (.addt s t d, 0b00#2, 0b00110#5), (.subc s t d, 0b00#2, 0b01010#5),
        (.addc s t d, 0b00#2, 0b01110#5), (.mult s t d, 0b00#2, 0b10010#5), (.andb s t d, 0b00#2, 0b10110#5),
        (.iorb s t d, 0b00#2, match e.iorbSlot with | .slot11010 => 0b11010#5 | .slot11110 => 0b11110#5),
        (.xorb s t d, 0b00#2, match e.iorbSlot with | .slot11010 => 0b11110#5 | .slot11110 => 0b11010#5),
        (.shlz s t d, 0b01#2, 0b00010#5), (.shru s t d, 0b01#2, 0b00110#5), (.shlf s t d, 0b01#2, 0b01010#5),
        (.shrs s t d, 0b01#2, 0b01110#5), (.btcl s t d, 0b01#2, 0b10010#5), (.btst s t d, 0b01#2, 0b11010#5),
        (.bttg s t d, 0b01#2, 0b11110#5), (.mlhu s t d, 0b10#2, 0b00010#5), (.mlhs s t d, 0b10#2, 0b00110#5)],
      encode e p.1 = p.2.1 ++ s.num ++ t.num ++ d.num ++ p.2.2) ∧
    encode e (.btts s t) = 0b01#2 ++ s.num ++ t.num ++ 0b00010110#8 ∧
    encode e (.comp s t) = 0b10#2 ++ s.num ++ t.num ++ 0b00010010#8 ∧
    encode e (.cmpc s t) = 0b10#2 ++ s.num ++ t.num ++ 0b00110010#8 ∧
    encode e (.compNeg c6 t) = 0b10#2 ++ c6 ++ t.num ++ 0b10110#5 ∧
    encode e (.adsp c an) = 0b10#2 ++ c.extractLsb' 0 6 ++ c.extractLsb' 6 1 ++ an.num e ++ 0b11010#5 ∧
    (∀ p ∈ [(.mtsrConstCc c, SReg.cc), (.mtsrConstCs c, .cs), (.mtsrConstLc c, .lc), (.mtsrConstAu c, .au)],
      encode e p.1 =
        0b10#2 ++ c.extractLsb' 0 6 ++ c.extractLsb' 6 1 ++ (SReg.num e p.2).extractLsb' 0 2 ++ 0b11110#5) ∧
    (∀ p ∈ [(.shlzConst k d, 0b00010#5), (.shruConst k d, 0b00110#5), (.shlfConst k d, 0b01010#5),
        (.shrsConst k d, 0b01110#5), (.btclConst k d, 0b10010#5), (.bttsConst k d, 0b10110#5),
        (.btstConst k d, 0b11010#5), (.bttgConst k d, 0b11110#5)],
      encode e p.1 = 0b11#2 ++ k ++ 0b10#2 ++ d.num ++ p.2) ∧
    (∀ p ∈ [(.move s d, 0b000#3, 0b000#3), (.negt s d, 0b000#3, 0b010#3), (.absl s d, 0b000#3, 0b011#3),
        (.invt s d, 0b000#3, 0b100#3), (.clzr s d, 0b000#3, 0b101#3), (.sxbt s d, e.sxbt.ggg, e.sxbt.ooo),
        (.sxsh s d, e.sxsh.ggg, e.sxsh.ooo), (.sbcf s d, 0b001#3, 0b000#3), (.adcf s d, 0b001#3, 0b001#3)],
      encode e p.1 = 0b11#2 ++ s.num ++ p.2.1 ++ d.num ++ p.2.2 ++ 0b10#2) ∧
    encode e (.cpcf s) = 0b11#2 ++ s.num ++ 0b00100001010#11 ∧
    encode e (.mfdp d) = 0b11000011#8 ++ d.num ++ 0b00010#5 ∧
    encode e (.mtdp s) = 0b11000011#8 ++ s.num ++ 0b00110#5 ∧
    encode e (.mfsr sr d) = 0b11#2 ++ sr.num e ++ 0b011#3 ++ d.num ++ 0b01010#5 ∧
    encode e (.mtsr s sr) = 0b11#2 ++ sr.num e ++ 0b011#3 ++ s.num ++ 0b01110#5

/-- The words that are no instruction under the default parameters: the seven items of R128. The parameters' defaults
are the spec's conjectures (notes/assumptions/1.md and 2.md). That fixed bits are checked, that an empty register
selection is no instruction, and that such words are refused are the spec's decisions D28, D21 and D14
(notes/assumptions/14.md). -/
def Obligations.RejectedWords : Prop :=
  ∀ op : Word,
    (decode .default op = .error .emptyRgs ↔
      op.extractLsb' 0 3 = 0b100 ∧ op.extractLsb' 10 6 = 0b100001 ∧ op.extractLsb' 5 3 = 0) ∧
    (decode .default op = .error .unassignedOpcode ↔
      (op.extractLsb' 0 3 = 0b100 ∧ op.extractLsb' 10 1 = 1 ∧
        op.extractLsb' 11 5 ∈ [0b01011#5, 0b01100#5, 0b01101#5, 0b01110#5, 0b01111#5]) ∨
      (op.extractLsb' 0 5 = 0b00101 ∧ op.extractLsb' 9 7 ≠ 0) ∨
      (op.extractLsb' 0 5 = 0b01101 ∧
        (op.extractLsb' 9 7 ≠ 0 ∨ op.extractLsb' 5 4 ∈ [0b0101#4, 0b1110#4, 0b1111#4])) ∨
      (op.extractLsb' 14 2 = 0b10 ∧
        (op.extractLsb' 0 5 = 0b01010 ∨ op.extractLsb' 0 5 = 0b01110 ∨
          (op.extractLsb' 0 5 = 0b10010 ∧ op.extractLsb' 5 3 ≠ 0b000 ∧ op.extractLsb' 5 3 ≠ 0b001))) ∨
      (op.extractLsb' 14 2 = 0b01 ∧ op.extractLsb' 0 5 = 0b10110 ∧ op.extractLsb' 5 3 ≠ 0) ∨
      (op.extractLsb' 14 2 = 0b11 ∧ op.extractLsb' 0 2 = 0b10 ∧ op.extractLsb' 8 2 ≠ 0b10 ∧
        ((op.extractLsb' 8 3 = 0b000 ∧ op.extractLsb' 2 3 = 0b001) ∨
          (op.extractLsb' 8 3 = 0b001 ∧
            (3 ≤ (op.extractLsb' 2 3).toNat ∨ (op.extractLsb' 2 3 = 0b010 ∧ op.extractLsb' 5 3 ≠ 0))) ∨
          (op.extractLsb' 8 3 = 0b011 ∧
            (4 ≤ (op.extractLsb' 2 3).toNat ∨ ((op.extractLsb' 2 3).toNat < 2 ∧ op.extractLsb' 11 3 ≠ 0))) ∨
          op.extractLsb' 8 3 ∈ [0b100#3, 0b101#3, 0b111#3])))

/-- The spec's own example words decode to the instructions that it gives for them (R110 to R125). The words that name a
special or an address register read so under the default SR_NUM and AN_NUM, a choice of the spec
(notes/assumptions/1.md). -/
def Obligations.ExampleWords : Prop :=
  ∀ p ∈ [(0x2920#16, Instr.ldbtDirect 0x25 .r1), (0xE924#16, .ldbtOffset 0b11101 .ta .r1), (0x142C#16, .ldshIndex .r2 .sp .r1),
      (0x462C#16, .ldshPostInc .r6 .r1), (0x4E3C#16, .stshPreDec .r1 .r6), (0x5624#16, .ldbtPostUpd .r6 .r1),
      (0x8CAC#16, .ldshRgs .sp 0b0001101), (0xDC1C#16, .stshRgs 0b0001101 .sp), (0x1239#16, .jpsrIa12 0x123),
      (0xFEB5#16, .brzr 0xFE), (0x0145#16, .siah 0xA), (0x006D#16, .rtir), (0xFF53#16, .moveConst 0x1FF .r2),
      (0x0A66#16, .addt .r1 .r2 .r3), (0x4A16#16, .btts .r1 .r2), (0xBD56#16, .compNeg 0b111101 .r2),
      (0x8A5E#16, .mtsrConstLc 10), (0xD66E#16, .shrsConst 5 .r3), (0xC90A#16, .cpcf .r1), (0xEB2E#16, .mtsr .r1 .ta)],
    decode .default p.1 = .ok p.2

/-! ## The step -/

/-- A step of a running processor in which no event takes the place of the fetch runs the decoded instruction, in the
state after the host's direct writes of that boundary: the next state is exec's, with the executed address noted, IACK
low and the host's next lines; a refusal of exec is the step's, and so is the refusal of a word that is no instruction
(R100, R128, R290, R335). The lines of a host whose script has ended and the order of the direct writes are the model's
choices (notes/assumptions/10.md, 11.md); the refusal of a word that is no instruction is the spec's decision D14
(notes/assumptions/14.md). -/
def Obligations.StepRunsDecoded : Prop :=
  ∀ (s w : State), s.hostWrites = w → w.run = .running → w.pins.reset = false → w.pins.strq = false →
    w.acknowledges = false → w.pins.breakpoint = false →
    (∀ i t, decode w.cfg.enc (w.readCode w.pc) = .ok i → exec i w = .next t → step s = .next { t with
      lastPc := w.pc
      iack := false
      pins := match t.inputs with | [] => t.pins.held false | p :: _ => p
      inputs := t.inputs.tail }) ∧
    (∀ i r, decode w.cfg.enc (w.readCode w.pc) = .ok i → exec i w = .refused r → step s = .refused r) ∧
    (decode w.cfg.enc (w.readCode w.pc) = .error .unassignedOpcode → step s = .refused .unassignedOpcode) ∧
    (decode w.cfg.enc (w.readCode w.pc) = .error .emptyRgs → step s = .refused .emptyRgs)

/-- The two ways the debug module stops a running processor. STRQ at a boundary stops it before the fetch, whatever
CS.IE, CS.IR and IRQ are (R341, R351); a breakpoint register that replaces the fetched word by `stop` stops it behind
the replaced instruction, where nothing of higher priority happens (R360, R320). Nothing else changes, and the word in
the instruction memory is as it was. STRQ before IRQ and pc behind the `stop` are the spec's decisions D19 and D27
(notes/assumptions/12.md, 17.md). -/
def Obligations.DebugModuleStops : Prop :=
  ∀ (s w : State), s.hostWrites = w → w.run = .running → w.pins.reset = false →
    (w.pins.strq = true →
      ∃ u, step s = .next u ∧ u.run = .stopped ∧ u.pc = w.pc ∧ u.iack = false ∧
        Unchanged [.run, .host] w u ∧ SameMemory w u) ∧
    (w.pins.strq = false → w.acknowledges = false → w.pins.breakpoint = true →
      ∃ u, step s = .next u ∧ u.run = .stopped ∧ u.pc = w.pc + 1 ∧ u.lastPc = w.pc ∧ u.iack = false ∧
        Unchanged [.run, .lastPc, .host] w u ∧ SameMemory w u)

/-- The entry sequence of an interrupt (R334, R336, R338): what is saved, where pc goes, what stays. The place and
format of the table's entries and that IE and IS stay are the spec's decisions D12 and D10 (notes/assumptions/15.md,
16.md). -/
def Obligations.InterruptEntry : Prop :=
  ∀ (s w : State) (base : Word), s.hostWrites = w → w.run = .running → w.pins.reset = false → w.pins.strq = false →
    w.pins.irq = true → w.cs.ie = true → w.cs.ir = false →
    base = BitVec.ofNat 16 (32 * w.cs.ivtp.toNat + 2 * w.pins.irn.toNat) →
    ∃ u, step s = .next u ∧ u.iack = true ∧ u.ira = w.pc ∧ u.ccs = w.cc ∧ u.iahs = w.iah ∧ u.iah = 0 ∧
      u.cs.ir = true ∧ u.pc = w.readByte (base + 1) ++ w.readByte base ∧
      Unchanged [.ira, .ccs, .iahs, .iah, .ir, .host] w u ∧ SameMemory w u

/-- IACK is asserted in exactly the steps that acknowledge: a running processor with IRQ, CS.IE = 1 and CS.IR = 0, no
reset and no stop request. So nothing is acknowledged in the interrupt state or in the stopped state (R334, R340, R341,
R357). The order of the events and the stopped state are the spec's decision D19 (notes/assumptions/12.md). -/
def Obligations.AcknowledgeExactly : Prop :=
  ∀ (s u : State), step s = .next u →
    (u.iack = true ↔ s.pins.reset = false ∧ s.pins.strq = false ∧ s.run = .running ∧ s.pins.irq = true ∧
      s.cs.ie = true ∧ s.cs.ir = false)

/-- A reset leaves the defined values and the start page of IRN, in either run state, whatever else the host asserts,
and touches neither memory (R341, R370, R371, R372). That reset comes before STRQ and IRQ is the spec's decision D19
(notes/assumptions/12.md), that the run state is then `running` its decision D20 (notes/assumptions/22.md); that the
host's writes of the boundary come first is the model's choice (notes/assumptions/11.md). -/
def Obligations.ResetEvent : Prop :=
  ∀ (s w : State), s.hostWrites = w → w.pins.reset = true →
    ∃ u, step s = .next u ∧ u.pc = w.pins.irn ++ 0#12 ∧ u.cs.ir = true ∧ u.cs.ie = false ∧ u.cs.save = false ∧
      u.cs.sel = false ∧ u.cc = ⟨false, false, false, false⟩ ∧ u.ccs = ⟨false, false, false, false⟩ ∧ u.iah = 0 ∧
      u.run = .running ∧ u.iack = false ∧ u.cfg = w.cfg ∧ SameMemory w u

/-- The machine right after the power-up reset, for every choice of the parameters and of what the manual leaves
undefined: the defined values, and pc at the start page RESET_IRN (R53, R370, R371, R372). The run state is the spec's
decision D20 (notes/assumptions/22.md). `State.reset` is that machine at the model's choices: the default parameters
(notes/assumptions/1.md to 6.md), and zeros where the manual defines nothing (notes/assumptions/7.md, 8.md). -/
def Obligations.ResetState : Prop :=
  (∀ (c : Config) (u : PowerUp),
    (State.powerUp c u).pc = c.resetIrn ++ 0#12 ∧ (State.powerUp c u).cs.ir = true ∧
    (State.powerUp c u).cs.ie = false ∧ (State.powerUp c u).cs.save = false ∧ (State.powerUp c u).cs.sel = false ∧
    (State.powerUp c u).cc = ⟨false, false, false, false⟩ ∧ (State.powerUp c u).ccs = ⟨false, false, false, false⟩ ∧
    (State.powerUp c u).iah = 0 ∧ (State.powerUp c u).run = .running ∧ (State.powerUp c u).cfg = c) ∧
  State.reset = State.powerUp .default .zeros

/-- A stopped processor fetches nothing and acknowledges nothing: it waits until the debug module resumes it, and then
runs from pc (R352, R356, R357). That no request is acknowledged is the spec's decision D19 (notes/assumptions/12.md).
-/
def Obligations.StoppedWaitsAndResumes : Prop :=
  ∀ (s w : State), s.hostWrites = w → w.run = .stopped → w.pins.reset = false →
    (w.pins.debug = .wait →
      ∃ u, step s = .next u ∧ u.pc = w.pc ∧ u.iack = false ∧ Unchanged [.host] w u ∧ SameMemory w u) ∧
    (w.pins.debug = .resume →
      ∃ u, step s = .next u ∧ u.run = .running ∧ u.pc = w.pc ∧ u.iack = false ∧
        Unchanged [.run, .host] w u ∧ SameMemory w u)

/-- An injected word runs as the instruction it decodes to, in the stopped state; a word that is no instruction is
refused as usual (R353, R355). Injection as one event with its opcode and DBI value is the spec's decision D18
(notes/assumptions/11.md, 17.md), the refusals its decisions D14 and D18 (notes/assumptions/14.md); the lines of a host
whose script has ended are the model's choice (notes/assumptions/10.md). -/
def Obligations.InjectionRuns : Prop :=
  ∀ (s w : State) (op : Word), s.hostWrites = w → w.run = .stopped → w.pins.reset = false → w.pins.debug = .inject op →
    (∀ i t, decode w.cfg.enc op = .ok i → exec i w = .next t → step s = .next { t with
      iack := false
      pins := match t.inputs with | [] => t.pins.held false | p :: _ => p
      inputs := t.inputs.tail }) ∧
    (∀ i r, decode w.cfg.enc op = .ok i → exec i w = .refused r → step s = .refused r) ∧
    (decode w.cfg.enc op = .error .unassignedOpcode → step s = .refused .unassignedOpcode) ∧
    (decode w.cfg.enc op = .error .emptyRgs → step s = .refused .emptyRgs)

/-- What the host's direct accesses do (R96, R358, R363): they write memory only. While the processor runs they reach the
listed data bytes alone, and the last value listed for a byte is what it reads as. While it is stopped the last value
listed for an opcode word is what it reads as, the last value listed for a data byte is what it reads as unless it is a
byte of a listed opcode word, and every other data byte and opcode word reads as before. That these writes come before
the event of their boundary, and the opcode words after the data bytes, is the model's choice (notes/assumptions/11.md,
19.md); addresses that share a byte exist only where a platform maps the instruction memory (notes/assumptions/5.md).
-/
def Obligations.HostWritesMemoryOnly : Prop :=
  ∀ s w : State, s.hostWrites = w → s.memWf = true →
    w.pc = s.pc ∧ Unchanged [] s w ∧
    (s.run = .running →
      StoresOnly (s.pins.dataWrites.map Prod.fst) s w ∧
      ∀ (l l' : List (Word × Byte)) (a : Word) (b : Byte), s.pins.dataWrites = l ++ (a, b) :: l' →
        (∀ c ∈ l', ¬ s.sameByte a c.1) → w.readByte a = b) ∧
    (s.run = .stopped →
      (∀ (l l' : List (Word × Word)) (a op : Word), s.pins.codeWrites = l ++ (a, op) :: l' →
        (∀ c ∈ l', c.1 ≠ a) → w.readCode a = op) ∧
      (∀ (l l' : List (Word × Byte)) (a : Word) (b : Byte), s.pins.dataWrites = l ++ (a, b) :: l' →
        (∀ c ∈ l', ¬ s.sameByte a c.1) → (∀ c ∈ s.pins.codeWrites, ¬ s.inWord a c.1) → w.readByte a = b) ∧
      (∀ a, (∀ c ∈ s.pins.dataWrites, ¬ s.sameByte a c.1) → (∀ c ∈ s.pins.codeWrites, ¬ s.inWord a c.1) →
        w.readByte a = s.readByte a) ∧
      (∀ a, (∀ c ∈ s.pins.codeWrites, c.1 ≠ a) → (∀ c ∈ s.pins.dataWrites, ¬ s.inWord c.1 a) →
        w.readCode a = s.readCode a))

/-! ## Invariants -/

/-- Every step keeps the memories in canonical form. The form is the model's own (notes/assumptions/8.md). -/
def Obligations.CanonicalMemory : Prop :=
  ∀ s t : State, s.memWf = true → step s = .next t → t.memWf = true

/-- The memories after the power-up reset are in canonical form. The form, and that both memories are then empty, are the
model's own choices: the spec gives no contents (R52; notes/assumptions/8.md). -/
def Obligations.ResetCanonicalMemory : Prop := State.reset.memWf = true

/-- CS.IR is set by reset and by interrupt entry and cleared by `rtir`, and by nothing else (R33, R340). -/
def Obligations.InterruptStateChanges : Prop :=
  ∀ s t : State, step s = .next t → t.cs.ir ≠ s.cs.ir →
    (t.cs.ir = true ∧ (s.pins.reset = true ∨ t.iack = true)) ∨
    (t.cs.ir = false ∧ s.pins.reset = false ∧ s.run = .running ∧
      decode s.cfg.enc s.hostWrites.fetched = .ok .rtir)

/-! ## All instructions -/

/-- An instruction is refused at exactly the points where the spec says `refuse`, by the name it gives (EmptyRGS,
LoadIntoAddressRegister, InjectedControlTransfer, RtirOutsideInterrupt); everywhere else it completes (R13, R169, R199,
R314, R330, R355). The refusals are the spec's decisions D15, D18, D21 and D22 (notes/assumptions/14.md). -/
def Obligations.RefusedExactly : Prop :=
  ∀ (i : Instr) (s : State),
    (∀ r, refusalOf i s = some r → exec i s = .refused r) ∧
    (refusalOf i s = none → ∃ t, exec i s = .next t)

/-- Whatever an instruction does, it writes at most the registers, flags and fields that the spec's lists of writers name
for it (R20, R30 to R49, R51, R163, R169, R176). Four points of these lists are the spec's own decisions: `jpsr` writes
the physical SA and leaves IRA alone also where CS.AS = 1 (D8), `rtir` leaves CS.IE and CS.IS alone (D10), `mtsr` to ID
writes no register (D30; all three notes/assumptions/16.md), and only `mtdp` and `svpc` write the DBO latch, running or
injected (D17; notes/assumptions/17.md). -/
def Obligations.InstructionFrame : Prop :=
  ∀ (i : Instr) (s t : State), exec i s = .next t → Unchanged (mayWrite s i) s t

/-- Only stores write memory, and where the platform does not map the instruction memory no instruction writes an opcode
word (R72, R84, R88). That a mapping is a list of windows is the model's form of it (notes/assumptions/5.md). -/
def Obligations.OnlyStoresWriteMemory : Prop :=
  ∀ (i : Instr) (s t : State), exec i s = .next t →
    (isStore i = false → SameMemory s t) ∧
    (s.cfg.imemWindows = [] → ∀ w, t.readCode w = s.readCode w)

/-- Every instruction but the control transfers and `rspc` goes to pc + 1, modulo 2^16, in the running state; an
injected instruction leaves pc alone unless it is `rspc` (R290, R354). That injected instructions leave pc alone and
that pc wraps are the spec's decisions D18 and D7 (notes/assumptions/17.md, 15.md). -/
def Obligations.SequentialExecution : Prop :=
  ∀ (i : Instr) (s t : State), exec i s = .next t → i ≠ .rspc →
    (s.run = .running → isTransfer i = false → t.pc = s.pc + 1) ∧ (s.run = .stopped → t.pc = s.pc)

/-! ## Memory operands -/

/-- A short is two bytes, low byte first; at an odd address the access takes the aligned short or, with a controller
that supports it, the bytes at the address and after it, modulo 2^16; bytes are zero-extended (R73, R75, R76, R78,
R80). A byte that the platform maps to the instruction memory is the byte of the opcode word there (R71, R88). The two
settings of a misaligned short, the mapping and the wrap are the spec's parameters D6 and D24 and decision D7
(notes/assumptions/5.md, 15.md). -/
def Obligations.ReadOperand : Prop :=
  ∀ (s : State) (a : Word),
    s.load .byte a = 0#8 ++ s.readByte a ∧
    (a.toNat % 2 = 0 → s.load .short a = s.readByte (a + 1) ++ s.readByte a) ∧
    (a.toNat % 2 = 1 → s.cfg.misaligned = .ignoreLsb → s.load .short a = s.readByte a ++ s.readByte (a - 1)) ∧
    (a.toNat % 2 = 1 → s.cfg.misaligned = .controller → s.load .short a = s.readByte (a + 1) ++ s.readByte a) ∧
    (∀ w : Word, s.aliased a = some (2 * w.toNat) → s.readByte a = (s.readCode w).extractLsb' 0 8) ∧
    (∀ w : Word, s.aliased a = some (2 * w.toNat + 1) → s.readByte a = (s.readCode w).extractLsb' 8 8)

/-- Effective data addresses and address register updates, modulo 2^16 (R170 to R176). That data addresses wrap (R78) is
the spec's decision D7 (notes/assumptions/15.md). -/
def Obligations.EffectiveAddresses : Prop :=
  ∀ (s : State) (z : Size) (f : BitVec 8) (ofs : BitVec 5) (rx : GReg) (an : AReg),
    (Mode.direct f).eda z s = BitVec.ofNat 16 (z.bytes.toNat * f.toNat) ∧
    (Mode.offset ofs an).eda z s = BitVec.ofInt 16 ((s.areg an).toNat + z.bytes.toNat * ofs.toInt) ∧
    (Mode.index rx an).eda z s = BitVec.ofNat 16 ((s.areg an).toNat + z.bytes.toNat * (s.reg rx).toNat) ∧
    (Mode.postInc an).eda z s = s.areg an ∧
    (Mode.preDec an).eda z s = BitVec.ofInt 16 ((s.areg an).toNat - z.bytes.toNat) ∧
    (Mode.postUpd an).eda z s = s.areg an ∧
    (Mode.direct f).update z s = none ∧ (Mode.offset ofs an).update z s = none ∧ (Mode.index rx an).update z s = none ∧
    (Mode.postInc an).update z s = some (an, BitVec.ofNat 16 ((s.areg an).toNat + z.bytes.toNat)) ∧
    (Mode.preDec an).update z s = some (an, BitVec.ofInt 16 ((s.areg an).toNat - z.bytes.toNat)) ∧
    (Mode.postUpd an).update z s = some (an, BitVec.ofNat 16 ((s.areg an).toNat + s.au.toNat))

/-- The single-register loads, all twelve forms (R191, R193): value, update, frame; nothing is stored. -/
def Obligations.LoadRegister : Prop :=
  ∀ (z : Size) (m : Mode) (rd : GReg) (s : State), loadsItsAddress (loadForm z m rd) = false →
    ∃ t, exec (loadForm z m rd) s = .next t ∧ t.reg rd = s.load z (m.eda z s) ∧
      (∀ an v, m.update z s = some (an, v) → t.areg an = v) ∧ Sequential (.reg rd :: m.parts) s t

/-- The single-register stores, all twelve forms (R195, R197, R199): what the stored bytes read as, which bytes they
are, the update, the frame. The value stored is the register's before the instruction. That last point is the spec's
decision D22 (notes/assumptions/20.md). Where a platform maps the instruction memory so that the two bytes of a short
are one byte of it, the high byte, written last, is what it reads as (notes/assumptions/5.md). -/
def Obligations.StoreRegister : Prop :=
  ∀ (z : Size) (m : Mode) (rs : GReg) (s : State), s.memWf = true →
    ∃ t, exec (storeForm z m rs) s = .next t ∧
      (s.cfg.imemWindows = [] ∨ s.separate (s.touched z (m.eda z s)) → t.load z (m.eda z s) = z.kept (s.reg rs)) ∧
      (z = .byte → t.readByte (m.eda z s) = (s.reg rs).extractLsb' 0 8) ∧
      (z = .short → t.readByte (s.shortBase (m.eda z s) + 1) = (s.reg rs).extractLsb' 8 8) ∧
      (∀ an v, m.update z s = some (an, v) → t.areg an = v) ∧ t.pc = nextPc s ∧ Unchanged m.parts s t ∧
      StoresOnly (s.touched z (m.eda z s)) s t

/-- The seven slots of a register selection of each size, and the members of a selection: the slots whose flag is set, in
slot order (R169). -/
def Obligations.SelectedSlots : Prop :=
  slots .byte = [.gp .r0, .gp .r1, .gp .r2, .gp .r3, .gp .r4, .gp .r5, .gp .r6] ∧
  slots .short = [.sa, .ta, .gp .r2, .gp .r3, .gp .r4, .gp .r5, .gp .r6] ∧
  ∀ (z : Size) (sel : BitVec 7),
    (selected z sel).Sublist (slots z) ∧
    ∀ (k : Nat) (h : k < (slots z).length), ((slots z)[k] ∈ selected z sel ↔ sel.getLsbD k = true)

/-- `ldbt (An)+,RGS` and `ldsh (An)+,RGS` (R95, R173, R192, R194): member i comes from A + size * i, An gets
A + size * n, nothing else changes. -/
def Obligations.LoadSelection : Prop :=
  ∀ (z : Size) (an : AReg) (sel : BitVec 7) (s : State), sel ≠ 0 →
    loadsItsAddress (loadRgsForm z an sel) = false →
    ∃ t, exec (loadRgsForm z an sel) s = .next t ∧
      (∀ (i : Nat) (h : i < (selected z sel).length),
        t.slot (selected z sel)[i] = s.load z (s.areg an + BitVec.ofNat 16 (z.bytes.toNat * i))) ∧
      t.areg an = s.areg an + BitVec.ofNat 16 (z.bytes.toNat * (selected z sel).length) ∧
      Sequential (AReg.part an :: (selected z sel).map Slot.part) s t

/-- `stbt RGS,-(An)` and `stsh RGS,-(An)` (R95, R174, R196, R198, R199): An gets A - size * n and member i lies at size
* i above it, with the value it had before; no other byte changes. That a member is the old value is the spec's
decision D22 (notes/assumptions/20.md). What the members read as is said where the stored bytes are different bytes: on
every platform that does not map the instruction memory, and on a mapping that does not put two of them on one byte
(notes/assumptions/5.md). -/
def Obligations.StoreSelection : Prop :=
  ∀ (z : Size) (an : AReg) (sel : BitVec 7) (s : State) (low : Word) (bytes : List Word), s.memWf = true → sel ≠ 0 →
    low = s.areg an - BitVec.ofNat 16 (z.bytes.toNat * (selected z sel).length) →
    bytes = ((List.range (selected z sel).length).flatMap fun i =>
      s.touched z (low + BitVec.ofNat 16 (z.bytes.toNat * i))) →
    ∃ t, exec (storeRgsForm z sel an) s = .next t ∧ t.areg an = low ∧
      (s.cfg.imemWindows = [] ∨ s.separate bytes →
        ∀ (i : Nat) (h : i < (selected z sel).length),
          t.load z (low + BitVec.ofNat 16 (z.bytes.toNat * i)) = z.kept (s.slot (selected z sel)[i])) ∧
      t.pc = nextPc s ∧ Unchanged [AReg.part an] s t ∧ StoresOnly bytes s t

/-- A store of a selection and a later load of the same selection through the same An give back every selected register
(its low byte, in the byte forms) and An, whatever has become of the registers in between, if memory and An are as the
store left them (R95, R198). The registers' values are said where the stored bytes are different bytes: on every
platform that does not map the instruction memory, and on a mapping that does not put two of them on one byte
(notes/assumptions/5.md). -/
def Obligations.SelectionPushPop : Prop :=
  ∀ (z : Size) (an : AReg) (sel : BitVec 7) (s : State) (bytes : List Word), s.memWf = true → sel ≠ 0 →
    loadsItsAddress (loadRgsForm z an sel) = false →
    bytes = ((List.range (selected z sel).length).flatMap fun i =>
      s.touched z (s.areg an - BitVec.ofNat 16 (z.bytes.toNat * (i + 1)))) →
    ∃ t, exec (storeRgsForm z sel an) s = .next t ∧
      ∀ t' : State, t'.cfg = t.cfg → SameMemory t t' → t'.areg an = t.areg an →
        ∃ u, exec (loadRgsForm z an sel) t' = .next u ∧ u.areg an = s.areg an ∧
          (s.cfg.imemWindows = [] ∨ s.separate bytes → ∀ k ∈ selected z sel, u.slot k = z.kept (s.slot k))

/-! ## Moves -/

/-- `move` (R201, R202): the words; the register's value, or the constant from -256 to 255; no flag. -/
def Obligations.Moves : Prop :=
  ∀ (rs rd : GReg) (c : BitVec 9) (s : State),
    Yields (.move rs rd) s rd (s.reg rs) ∧ Yields (.moveConst c rd) s rd (BitVec.ofInt 16 c.toInt) ∧
    encode s.cfg.enc (.move rs rd) = 0b11#2 ++ rs.num ++ 0b000#3 ++ rd.num ++ 0b00010#5 ∧
    encode s.cfg.enc (.moveConst c rd) = c.extractLsb' 0 8 ++ rd.num ++ c.extractLsb' 8 1 ++ 0b0011#4

/-- `mfsr` for each of the eight special registers (R203, R43, R44): what stands at which bit, zeros elsewhere. -/
def Obligations.ReadSpecialRegister : Prop :=
  ∀ (rd : GReg) (s : State),
    Yields (.mfsr .lc rd) s rd s.lc ∧ Yields (.mfsr .au rd) s rd s.au ∧ Yields (.mfsr .sp rd) s rd s.sp ∧
    Yields (.mfsr .ta rd) s rd s.ta ∧
    (s.cs.sel = false → Yields (.mfsr .sa rd) s rd s.sa) ∧ (s.cs.sel = true → Yields (.mfsr .sa rd) s rd s.ira) ∧
    (∃ v, Yields (.mfsr .cc rd) s rd v ∧ v.getLsbD (s.cfg.ccPos.at 0).toNat = s.cc.c ∧
      v.getLsbD (s.cfg.ccPos.at 1).toNat = s.cc.o ∧ v.getLsbD (s.cfg.ccPos.at 2).toNat = s.cc.z ∧
      v.getLsbD (s.cfg.ccPos.at 3).toNat = s.cc.n ∧ v.toNat < 16) ∧
    (∃ v, Yields (.mfsr .cs rd) s rd v ∧ v.extractLsb' 5 11 = s.cs.ivtp ∧ v.getLsbD s.cfg.csPos.ir = s.cs.ir ∧
      v.getLsbD s.cfg.csPos.ie = s.cs.ie ∧ v.getLsbD s.cfg.csPos.save = s.cs.save ∧
      v.getLsbD s.cfg.csPos.sel = s.cs.sel ∧
      ∀ k : Fin 5, k ∉ [s.cfg.csPos.ir, s.cfg.csPos.ie, s.cfg.csPos.save, s.cfg.csPos.sel] → v.getLsbD k = false) ∧
    (∃ v, Yields (.mfsr .id rd) s rd v ∧ v.extractLsb' (4 * (s.cfg.idPos.at 0).toNat) 4 = 5 ∧
      v.extractLsb' (4 * (s.cfg.idPos.at 1).toNat) 4 = 1 ∧
      (v.extractLsb' (4 * (s.cfg.idPos.at 2).toNat) 4).toNat =
        (match s.cfg.idIma with | .iss => 0 | .light => 1 | .performance => 2 | .superscalar => 3 | .ultraLight => 4) ∧
      v.extractLsb' (4 * (s.cfg.idPos.at 3).toNat) 4 = s.cfg.idRev)

/-- `mtsr Rs,SRd` for each of the eight special registers (R204, R43): CC takes its four flags, CS only IVTP, SA goes
to SA or to IRA by CS.AS, ID takes nothing. That a move to ID does nothing is the spec's decision D30
(notes/assumptions/16.md). -/
def Obligations.WriteSpecialRegister : Prop :=
  ∀ (rs : GReg) (s : State) (v : Word), v = s.reg rs →
    (∃ t, exec (.mtsr rs .lc) s = .next t ∧ t.lc = v ∧ Sequential [.lc] s t) ∧
    (∃ t, exec (.mtsr rs .au) s = .next t ∧ t.au = v ∧ Sequential [.au] s t) ∧
    (∃ t, exec (.mtsr rs .sp) s = .next t ∧ t.sp = v ∧ Sequential [.sp] s t) ∧
    (∃ t, exec (.mtsr rs .ta) s = .next t ∧ t.ta = v ∧ Sequential [.ta] s t) ∧
    (s.cs.sel = false → ∃ t, exec (.mtsr rs .sa) s = .next t ∧ t.sa = v ∧ Sequential [.sa] s t) ∧
    (s.cs.sel = true → ∃ t, exec (.mtsr rs .sa) s = .next t ∧ t.ira = v ∧ Sequential [.ira] s t) ∧
    (∃ t, exec (.mtsr rs .cc) s = .next t ∧ t.cc.c = v.getLsbD (s.cfg.ccPos.at 0).toNat ∧
      t.cc.o = v.getLsbD (s.cfg.ccPos.at 1).toNat ∧ t.cc.z = v.getLsbD (s.cfg.ccPos.at 2).toNat ∧
      t.cc.n = v.getLsbD (s.cfg.ccPos.at 3).toNat ∧ Sequential [.cc] s t) ∧
    (∃ t, exec (.mtsr rs .cs) s = .next t ∧ t.cs.ivtp = v.extractLsb' 5 11 ∧ Sequential [.ivtp] s t) ∧
    (∃ t, exec (.mtsr rs .id) s = .next t ∧ Sequential [] s t)

/-- `mtsr` with a 7-bit constant (R205 to R208, R150 to R152): a constant field of 0 means 128 for LC and 64 for AU. -/
def Obligations.ConstantToSpecialRegister : Prop :=
  ∀ (f : BitVec 7) (s : State),
    (∃ t, exec (.mtsrConstCc f) s = .next t ∧ t.cc.c = f.getLsbD (s.cfg.ccPos.at 0).toNat ∧
      t.cc.o = f.getLsbD (s.cfg.ccPos.at 1).toNat ∧ t.cc.z = f.getLsbD (s.cfg.ccPos.at 2).toNat ∧
      t.cc.n = f.getLsbD (s.cfg.ccPos.at 3).toNat ∧ Sequential [.cc] s t) ∧
    (∃ t, exec (.mtsrConstCs f) s = .next t ∧ t.cs.ivtp.toNat = f.toNat / 32 ∧ Sequential [.ivtp] s t) ∧
    (∃ t, exec (.mtsrConstLc f) s = .next t ∧ t.lc.toNat = (if f = 0 then 128 else f.toNat) ∧ Sequential [.lc] s t) ∧
    (∃ t, exec (.mtsrConstAu f) s = .next t ∧ t.au.toInt = signedNonzero f ∧ Sequential [.au] s t)

/-- The instructions of the debug port (R209, R210, R313, R321, R354): they do the same in both run states, but for the
address that `svpc` outputs in the stopped state under SVPC_VALUE = last_executed. What they do outside an injection,
and what `svpc` outputs, are the spec's decisions D16 to D18 (notes/assumptions/6.md, 17.md). -/
def Obligations.DebugPort : Prop :=
  ∀ (r : GReg) (s : State),
    Yields (.mfdp r) s r s.pins.dbi ∧
    (∃ t, exec (.mtdp r) s = .next t ∧ t.dbgo = s.reg r ∧ Sequential [.dbgo] s t) ∧
    (∃ t, exec .svpc s = .next t ∧
      t.dbgo = (if s.run = .stopped ∧ s.cfg.svpcValue = .lastExecuted then s.lastPc else s.pc) ∧
      Sequential [.dbgo] s t) ∧
    (∃ t, exec .rspc s = .next t ∧ t.pc = s.pins.dbi ∧ Unchanged [] s t ∧ SameMemory s t)

/-! ## Arithmetic -/

/-- The additions that write flags (R220, R222, R224, R225, R227), in numbers: the result is the exact sum modulo 2^16, C
the carry out of it, O the signed sum out of range, Z the result zero (and Z before, in the with-carry forms). -/
def Obligations.Additions : Prop :=
  ∀ (rs0 rs1 rd : GReg) (f : BitVec 8) (s : State) (c8un : Word),
    c8un = BitVec.ofNat 16 (if f = 0 then 256 else f.toNat) →
    (∃ t, exec (.addt rs0 rs1 rd) s = .next t ∧
      t.reg rd = BitVec.ofNat 16 (exactSum (s.reg rs1) (s.reg rs0) false) ∧
      t.cc = sumFlags (s.reg rs1) (s.reg rs0) false true ∧ Sequential [.reg rd, .cc] s t) ∧
    (∃ t, exec (.addtConst f rd) s = .next t ∧
      t.reg rd = BitVec.ofNat 16 (exactSum (s.reg rd) c8un false) ∧
      t.cc = sumFlags (s.reg rd) c8un false true ∧ Sequential [.reg rd, .cc] s t) ∧
    (∃ t, exec (.addc rs0 rs1 rd) s = .next t ∧
      t.reg rd = BitVec.ofNat 16 (exactSum (s.reg rs1) (s.reg rs0) s.cc.c) ∧
      t.cc = sumFlags (s.reg rs1) (s.reg rs0) s.cc.c s.cc.z ∧ Sequential [.reg rd, .cc] s t) ∧
    (∃ t, exec (.adcf rs0 rd) s = .next t ∧
      t.reg rd = BitVec.ofNat 16 (exactSum (s.reg rs0) 0 s.cc.c) ∧
      t.cc = sumFlags (s.reg rs0) 0 s.cc.c s.cc.z ∧ Sequential [.reg rd, .cc] s t)

/-- The subtractions (R221, R222, R234, R235, R236), in numbers: second operand minus first, C the borrow. -/
def Obligations.Subtractions : Prop :=
  ∀ (rs0 rs1 rd : GReg) (f : BitVec 8) (s : State) (c8un : Word),
    c8un = BitVec.ofNat 16 (if f = 0 then 256 else f.toNat) →
    (∃ t, exec (.subf rs0 rs1 rd) s = .next t ∧
      t.reg rd = BitVec.ofInt 16 (exactDifference (s.reg rs1) (s.reg rs0) false) ∧
      t.cc = differenceFlags (s.reg rs1) (s.reg rs0) false true ∧ Sequential [.reg rd, .cc] s t) ∧
    (∃ t, exec (.subfConst f rd) s = .next t ∧
      t.reg rd = BitVec.ofInt 16 (exactDifference (s.reg rd) c8un false) ∧
      t.cc = differenceFlags (s.reg rd) c8un false true ∧ Sequential [.reg rd, .cc] s t) ∧
    (∃ t, exec (.subc rs0 rs1 rd) s = .next t ∧
      t.reg rd = BitVec.ofInt 16 (exactDifference (s.reg rs1) (s.reg rs0) s.cc.c) ∧
      t.cc = differenceFlags (s.reg rs1) (s.reg rs0) s.cc.c s.cc.z ∧ Sequential [.reg rd, .cc] s t) ∧
    (∃ t, exec (.sbcf rs0 rd) s = .next t ∧
      t.reg rd = BitVec.ofInt 16 (exactDifference (s.reg rs0) 0 s.cc.c) ∧
      t.cc = differenceFlags (s.reg rs0) 0 s.cc.c s.cc.z ∧ Sequential [.reg rd, .cc] s t)

/-- The comparisons (R221, R222, R230, R231, R232): the flags of the subtraction, no register. -/
def Obligations.Comparisons : Prop :=
  ∀ (rs0 rs1 : GReg) (f : BitVec 8) (g : BitVec 6) (s : State),
    (∃ t, exec (.comp rs0 rs1) s = .next t ∧ t.cc = differenceFlags (s.reg rs1) (s.reg rs0) false true ∧
      Sequential [.cc] s t) ∧
    (∃ t, exec (.compPos f rs1) s = .next t ∧
      t.cc = differenceFlags (s.reg rs1) (BitVec.ofNat 16 f.toNat) false true ∧ Sequential [.cc] s t) ∧
    (∃ t, exec (.compNeg g rs1) s = .next t ∧
      t.cc = differenceFlags (s.reg rs1) (BitVec.ofInt 16 (g.toNat - 64)) false true ∧ Sequential [.cc] s t) ∧
    (∃ t, exec (.cmpc rs0 rs1) s = .next t ∧ t.cc = differenceFlags (s.reg rs1) (s.reg rs0) s.cc.c s.cc.z ∧
      Sequential [.cc] s t) ∧
    (∃ t, exec (.cpcf rs0) s = .next t ∧ t.cc = differenceFlags (s.reg rs0) 0 s.cc.c s.cc.z ∧ Sequential [.cc] s t)

/-- The one-source computations that write no flag (R223, R233, R237, R238, R251), in numbers; the words of those whose
encoding is no parameter. -/
def Obligations.UnaryComputations : Prop :=
  ∀ (rs rd : GReg) (s : State) (v : Word), v = s.reg rs →
    Yields (.absl rs rd) s rd (BitVec.ofNat 16 v.toInt.natAbs) ∧
    Yields (.negt rs rd) s rd (BitVec.ofInt 16 (-v.toInt)) ∧
    Yields (.sxbt rs rd) s rd (BitVec.ofInt 16 (v.extractLsb' 0 8).toInt) ∧
    Yields (.sxsh rs rd) s rd ((BitVec.ofInt 32 v.toInt).extractLsb' 16 16) ∧
    Yields (.invt rs rd) s rd (BitVec.ofNat 16 (65535 - v.toNat)) ∧
    encode s.cfg.enc (.absl rs rd) = 0b11#2 ++ rs.num ++ 0b000#3 ++ rd.num ++ 0b01110#5 ∧
    encode s.cfg.enc (.negt rs rd) = 0b11#2 ++ rs.num ++ 0b000#3 ++ rd.num ++ 0b01010#5 ∧
    encode s.cfg.enc (.invt rs rd) = 0b11#2 ++ rs.num ++ 0b000#3 ++ rd.num ++ 0b10010#5

/-- `clzr` (R229): its word; the count of zero bits above the first set bit, 16 for zero; no flag. -/
def Obligations.CountLeadingZeros : Prop :=
  ∀ (rs rd : GReg) (s : State), ∃ n, n ≤ 16 ∧ Yields (.clzr rs rd) s rd (BitVec.ofNat 16 n) ∧
    (∀ j, 16 ≤ j + n → (s.reg rs).getLsbD j = false) ∧ (n < 16 → (s.reg rs).getLsbD (15 - n) = true) ∧
    (n = 16 ↔ s.reg rs = 0) ∧
    encode s.cfg.enc (.clzr rs rd) = 0b11#2 ++ rs.num ++ 0b000#3 ++ rd.num ++ 0b10110#5

/-- `addh` and `adsp` (R226, R228, R152): no flag; the constant 0 of `adsp` means 64. -/
def Obligations.AddressArithmetic : Prop :=
  ∀ (c : BitVec 8) (f : BitVec 7) (rb : GReg) (ad : AReg) (s : State),
    Yields (.addh c rb) s rb (BitVec.ofNat 16 ((s.reg rb).toNat + 256 * c.toNat)) ∧
    (∃ t, exec (.adsp f ad) s = .next t ∧ t.areg ad = BitVec.ofInt 16 (s.sp.toNat + signedNonzero f) ∧
      Sequential [AReg.part ad] s t)

/-- A 32-bit addition in two instructions (R239): `addt` of the low words, then `addc` of the high words, give the sum,
and C, O, N and Z are those of the 32-bit sum. -/
def Obligations.DoubleAdd : Prop :=
  ∀ (a0 a1 b0 b1 d0 d1 : GReg) (s : State) (x y : BitVec 32), d0 ≠ a1 → d0 ≠ b1 → d0 ≠ d1 →
    x = s.reg a1 ++ s.reg a0 → y = s.reg b1 ++ s.reg b0 →
    ∃ t u, exec (.addt a0 b0 d0) s = .next t ∧ exec (.addc a1 b1 d1) t = .next u ∧
      u.reg d1 ++ u.reg d0 = y + x ∧
      u.cc.c = decide (2 ^ 32 ≤ y.toNat + x.toNat) ∧
      u.cc.o = decide (y.toInt + x.toInt < -2 ^ 31 ∨ 2 ^ 31 ≤ y.toInt + x.toInt) ∧
      u.cc.z = decide (y + x = 0) ∧ u.cc.n = (y + x).msb

/-- A 32-bit subtraction and a 32-bit comparison in two instructions each (R239, R222): the difference, and the flags of
the 32-bit difference; the comparison leaves the same flags. -/
def Obligations.DoubleSubtract : Prop :=
  ∀ (a0 a1 b0 b1 d0 d1 : GReg) (s : State) (x y : BitVec 32), d0 ≠ a1 → d0 ≠ b1 → d0 ≠ d1 →
    x = s.reg a1 ++ s.reg a0 → y = s.reg b1 ++ s.reg b0 →
    ∃ t u t' u', exec (.subf a0 b0 d0) s = .next t ∧ exec (.subc a1 b1 d1) t = .next u ∧
      exec (.comp a0 b0) s = .next t' ∧ exec (.cmpc a1 b1) t' = .next u' ∧
      u.reg d1 ++ u.reg d0 = y - x ∧ u.cc.c = decide (y.toNat < x.toNat) ∧
      u.cc.o = decide (y.toInt - x.toInt < -2 ^ 31 ∨ 2 ^ 31 ≤ y.toInt - x.toInt) ∧
      u.cc.z = decide (y = x) ∧ u.cc.n = (y - x).msb ∧ u'.cc = u.cc

/-! ## Logic, shifts, bits, multiplies -/

/-- `andb` (R250): the bits, and the parity of the result in C and, exclusive-or'ed with the old C, in O. -/
def Obligations.AndWithParity : Prop :=
  ∀ (rs0 rs1 rd : GReg) (f : BitVec 8) (s : State),
    ∀ p ∈ [(Instr.andb rs0 rs1 rd, s.reg rs1, s.reg rs0), (.andbConst f rd, s.reg rd, BitVec.ofNat 16 f.toNat)],
      ∃ t r, exec p.1 s = .next t ∧ t.reg rd = r ∧ (∀ j, r.getLsbD j = (p.2.1.getLsbD j && p.2.2.getLsbD j)) ∧
        t.cc.c = decide (setBits r % 2 = 1) ∧ t.cc.o = (decide (setBits r % 2 = 1) ^^ s.cc.c) ∧
        t.cc.z = decide (r = 0) ∧ t.cc.n = r.getLsbD 15 ∧ Sequential [.reg rd, .cc] s t

/-- `iorb` in both forms and `xorb`, bit by bit; no flag (R252, R253). -/
def Obligations.OrAndExclusiveOr : Prop :=
  ∀ (rs0 rs1 rd : GReg) (f : BitVec 8) (s : State),
    (∃ r, Yields (.iorb rs0 rs1 rd) s rd r ∧ ∀ j, r.getLsbD j = ((s.reg rs1).getLsbD j || (s.reg rs0).getLsbD j)) ∧
    (∃ r, Yields (.iorbConst f rd) s rd r ∧ ∀ j, r.getLsbD j = ((s.reg rd).getLsbD j || f.getLsbD j)) ∧
    (∃ r, Yields (.xorb rs0 rs1 rd) s rd r ∧ ∀ j, r.getLsbD j = ((s.reg rs1).getLsbD j ^^ (s.reg rs0).getLsbD j))

/-- The four shifts in both forms, in numbers (R254 to R258): the count is bits [3:0] of Rs0 or the constant; no flag. -/
def Obligations.Shifts : Prop :=
  ∀ (rs0 rs1 rd : GReg) (k : BitVec 4) (s : State) (c : Nat), c = (s.reg rs0).toNat % 16 →
    Yields (.shlz rs0 rs1 rd) s rd (BitVec.ofNat 16 ((s.reg rs1).toNat * 2 ^ c)) ∧
    Yields (.shru rs0 rs1 rd) s rd (BitVec.ofNat 16 ((s.reg rs1).toNat / 2 ^ c)) ∧
    Yields (.shrs rs0 rs1 rd) s rd (BitVec.ofInt 16 ((s.reg rs1).toInt / 2 ^ c)) ∧
    Yields (.shlf rs0 rs1 rd) s rd ((s.reg rs1).rotateLeft c) ∧
    Yields (.shlzConst k rd) s rd (BitVec.ofNat 16 ((s.reg rd).toNat * 2 ^ k.toNat)) ∧
    Yields (.shruConst k rd) s rd (BitVec.ofNat 16 ((s.reg rd).toNat / 2 ^ k.toNat)) ∧
    Yields (.shrsConst k rd) s rd (BitVec.ofInt 16 ((s.reg rd).toInt / 2 ^ k.toNat)) ∧
    Yields (.shlfConst k rd) s rd ((s.reg rd).rotateLeft k.toNat)

/-- Clearing, setting and toggling a bit in both forms, bit by bit; no flag (R259 to R262). -/
def Obligations.BitChanges : Prop :=
  ∀ (rs0 rs1 rd : GReg) (k : BitVec 4) (s : State) (c : Nat), c = (s.reg rs0).toNat % 16 →
    (∃ r, Yields (.btcl rs0 rs1 rd) s rd r ∧ ∀ j, r.getLsbD j = if j = c then false else (s.reg rs1).getLsbD j) ∧
    (∃ r, Yields (.btst rs0 rs1 rd) s rd r ∧ ∀ j, r.getLsbD j = if j = c then true else (s.reg rs1).getLsbD j) ∧
    (∃ r, Yields (.bttg rs0 rs1 rd) s rd r ∧
      ∀ j, r.getLsbD j = if j = c then !(s.reg rs1).getLsbD j else (s.reg rs1).getLsbD j) ∧
    (∃ r, Yields (.btclConst k rd) s rd r ∧ ∀ j, r.getLsbD j = if j = k.toNat then false else (s.reg rd).getLsbD j) ∧
    (∃ r, Yields (.btstConst k rd) s rd r ∧ ∀ j, r.getLsbD j = if j = k.toNat then true else (s.reg rd).getLsbD j) ∧
    (∃ r, Yields (.bttgConst k rd) s rd r ∧
      ∀ j, r.getLsbD j = if j = k.toNat then !(s.reg rd).getLsbD j else (s.reg rd).getLsbD j)

/-- `btts` in both forms (R263): the words; Z is the tested bit's complement, N is set only by bit 15, C and O are cleared. -/
def Obligations.BitTest : Prop :=
  ∀ (rs0 rs1 : GReg) (k : BitVec 4) (s : State) (c : Nat), c = (s.reg rs0).toNat % 16 →
    ∀ p ∈ [(Instr.btts rs0 rs1, s.reg rs1, c), (.bttsConst k rs1, s.reg rs1, k.toNat)],
      ∃ t, exec p.1 s = .next t ∧ t.cc.c = false ∧ t.cc.o = false ∧ t.cc.z = !(p.2.1.getLsbD p.2.2) ∧
        t.cc.n = (decide (p.2.2 = 15) && p.2.1.getLsbD 15) ∧ Sequential [.cc] s t ∧
        encode s.cfg.enc (.btts rs0 rs1) = 0b01#2 ++ rs0.num ++ rs1.num ++ 0b00010110#8 ∧
        encode s.cfg.enc (.bttsConst k rs1) = 0b11#2 ++ k ++ 0b10#2 ++ rs1.num ++ 0b10110#5

/-- The multiplies (R280 to R282): the words; the low word and the signed and unsigned high words of the exact product; together
they are the 32-bit product. -/
def Obligations.Multiplies : Prop :=
  ∀ (rs0 rs1 rd : GReg) (s : State), ∃ low high highSigned,
    Yields (.mult rs0 rs1 rd) s rd low ∧ Yields (.mlhu rs0 rs1 rd) s rd high ∧
    Yields (.mlhs rs0 rs1 rd) s rd highSigned ∧
    (high ++ low).toNat = (s.reg rs1).toNat * (s.reg rs0).toNat ∧
    (highSigned ++ low).toInt = (s.reg rs1).toInt * (s.reg rs0).toInt ∧
    encode s.cfg.enc (.mult rs0 rs1 rd) = 0b00#2 ++ rs0.num ++ rs1.num ++ rd.num ++ 0b10010#5 ∧
    encode s.cfg.enc (.mlhu rs0 rs1 rd) = 0b10#2 ++ rs0.num ++ rs1.num ++ rd.num ++ 0b00010#5 ∧
    encode s.cfg.enc (.mlhs rs0 rs1 rd) = 0b10#2 ++ rs0.num ++ rs1.num ++ rd.num ++ 0b00110#5

/-! ## Flow control -/

/-- The branches on CC and `bral` (R291 to R306; `bral` branches always: D13, notes/assumptions/13.md): where they go,
for every value of the flags; nothing else changes. -/
def Obligations.Branches : Prop :=
  ∀ (f : BitVec 8) (s : State), s.run = .running →
    ∀ b ∈ [(Instr.brnc f, !s.cc.c), (.brcr f, s.cc.c), (.brno f, !s.cc.o), (.brof f, s.cc.o), (.brnz f, !s.cc.z),
        (.brzr f, s.cc.z), (.brps f, !s.cc.n), (.brng f, s.cc.n), (.brls f, s.cc.c || s.cc.z),
        (.brhi f, !(s.cc.c || s.cc.z)), (.brlo f, s.cc.n != s.cc.o), (.brge f, s.cc.n == s.cc.o),
        (.brle f, s.cc.z || s.cc.n != s.cc.o), (.brgt f, !s.cc.z && s.cc.n == s.cc.o), (.bral f, true)],
      ∃ t, exec b.1 s = .next t ∧ t.pc = (if b.2 then branchTarget s.pc f else s.pc + 1) ∧ Unchanged [] s t ∧
        SameMemory s t

/-- `comp Rs0,Rs1` and then a branch: each condition is an order between the two registers, unsigned or signed, Rs1 on
the left (R231, R292, R293, R296, R297, R300 to R305). -/
def Obligations.CompareAndBranch : Prop :=
  ∀ (rs0 rs1 : GReg) (f : BitVec 8) (s : State), s.run = .running →
    ∃ t, exec (.comp rs0 rs1) s = .next t ∧
      ∀ b ∈ [(Instr.brnc f, decide ((s.reg rs0).toNat ≤ (s.reg rs1).toNat)),
          (.brcr f, decide ((s.reg rs1).toNat < (s.reg rs0).toNat)),
          (.brnz f, decide (s.reg rs1 ≠ s.reg rs0)), (.brzr f, decide (s.reg rs1 = s.reg rs0)),
          (.brls f, decide ((s.reg rs1).toNat ≤ (s.reg rs0).toNat)),
          (.brhi f, decide ((s.reg rs0).toNat < (s.reg rs1).toNat)),
          (.brlo f, decide ((s.reg rs1).toInt < (s.reg rs0).toInt)),
          (.brge f, decide ((s.reg rs0).toInt ≤ (s.reg rs1).toInt)),
          (.brle f, decide ((s.reg rs1).toInt ≤ (s.reg rs0).toInt)),
          (.brgt f, decide ((s.reg rs0).toInt < (s.reg rs1).toInt))],
        ∃ u, exec b.1 t = .next u ∧ u.pc = (if b.2 then branchTarget (s.pc + 1) f else s.pc + 2)

/-- `brlc` (R307): LC counts down modulo 2^16, and the branch is taken unless it has reached zero. -/
def Obligations.LoopCounterBranch : Prop :=
  ∀ (f : BitVec 8) (s : State), s.run = .running →
    ∃ t, exec (.brlc f) s = .next t ∧ t.lc.toNat = (s.lc.toNat + 65535) % 65536 ∧
      t.pc = (if s.lc = 1 then s.pc + 1 else branchTarget s.pc f) ∧ Unchanged [.lc] s t ∧ SameMemory s t

/-- Jumps, subroutine calls and returns (R310, R311, R315, R178): the target, the link in the physical SA whatever
CS.AS is, IAH cleared by the absolute forms alone. The physical SA is the spec's decision D8 (notes/assumptions/16.md).
-/
def Obligations.JumpsAndSubroutines : Prop :=
  ∀ (a : BitVec 12) (s : State), s.run = .running →
    (∃ t, exec .jumpTa s = .next t ∧ t.pc = s.ta ∧ Unchanged [] s t ∧ SameMemory s t) ∧
    (∃ t, exec (.jumpIa12 a) s = .next t ∧ t.pc = s.iah ++ a ∧ t.iah = 0 ∧ Unchanged [.iah] s t ∧ SameMemory s t) ∧
    (∃ t, exec .jpsrTa s = .next t ∧ t.pc = s.ta ∧ t.sa = s.pc + 1 ∧ Unchanged [.sa] s t ∧ SameMemory s t) ∧
    (∃ t, exec (.jpsrIa12 a) s = .next t ∧ t.pc = s.iah ++ a ∧ t.sa = s.pc + 1 ∧ t.iah = 0 ∧
      Unchanged [.sa, .iah] s t ∧ SameMemory s t) ∧
    (∃ t, exec .rtsr s = .next t ∧ t.pc = s.sa ∧ Unchanged [] s t ∧ SameMemory s t)

/-- The instructions on the flags of CS and on IAH (R308, R309, R312, R316, R317, R318, R319, R180), in either run
state. That `siah 0` is legal is the spec's decision D29 (notes/assumptions/16.md). -/
def Obligations.ControlFlags : Prop :=
  ∀ (h : BitVec 4) (s : State),
    (∃ t, exec .stie s = .next t ∧ t.cs.ie = true ∧ Sequential [.ie] s t) ∧
    (∃ t, exec .clie s = .next t ∧ t.cs.ie = false ∧ Sequential [.ie] s t) ∧
    (∃ t, exec .rsie s = .next t ∧ t.cs.ie = s.cs.save ∧ Sequential [.ie] s t) ∧
    (∃ t, exec .scie s = .next t ∧ t.cs.save = s.cs.ie ∧ t.cs.ie = false ∧ Sequential [.save, .ie] s t) ∧
    (∃ t, exec .stas s = .next t ∧ t.cs.sel = true ∧ Sequential [.sel] s t) ∧
    (∃ t, exec .clas s = .next t ∧ t.cs.sel = false ∧ Sequential [.sel] s t) ∧
    (∃ t, exec (.siah h) s = .next t ∧ t.iah = h ∧ Sequential [.iah] s t)

/-- Between `scie` and `rsie` no request is acknowledged, and `rsie` restores the enable that `scie` found: any
instructions between them that leave CS.IE and CS.IS alone (R34, R35, R92, R316, R334). -/
def Obligations.CriticalSection : Prop :=
  ∀ s : State, ∃ t, exec .scie s = .next t ∧
    ∀ t' : State, t'.cs.ie = t.cs.ie → t'.cs.save = t.cs.save →
      t'.acknowledges = false ∧ ∃ u, exec .rsie t' = .next u ∧ u.cs.ie = s.cs.ie

/-- `stop` (R320, R352): the stopped state with pc behind it; injected, it changes nothing. Both points are the spec's
decisions D27 and D18 (notes/assumptions/17.md). -/
def Obligations.Stop : Prop :=
  ∀ s : State, ∃ t, exec .stop s = .next t ∧ t.run = .stopped ∧ t.pc = nextPc s ∧ Unchanged [.run] s t ∧
    SameMemory s t ∧ (s.run = .stopped → t = s)

/-- `rtir` in the interrupt state (R314, R339): pc, CC and IAH from IRA, CCS and IAHS; CS.IR cleared; the other bits of
CS and the hidden registers as they were. That CS.IE and CS.IS stay is the spec's decision D10
(notes/assumptions/16.md). -/
def Obligations.ReturnFromInterrupt : Prop :=
  ∀ s : State, s.run = .running → s.cs.ir = true →
    ∃ t, exec .rtir s = .next t ∧ t.pc = s.ira ∧ t.cc = s.ccs ∧ t.iah = s.iahs ∧ t.cs.ir = false ∧
      Unchanged [.cc, .iah, .ir] s t ∧ SameMemory s t

/-- An interrupt and the `rtir` of its service routine resume the interrupted program where it was, with its flags,
IAH, IE and IS, from every running state that has IRA, CCS, IAHS, CS.IR, CS.IE and CS.IS as the entry left them (R336,
R337, R339). That neither the entry nor `rtir` writes IE or IS is the spec's decision D10 (notes/assumptions/16.md). -/
def Obligations.InterruptAndReturn : Prop :=
  ∀ (s w : State), s.hostWrites = w → w.run = .running → w.pins.reset = false → w.pins.strq = false →
    w.acknowledges = true →
    ∃ u, step s = .next u ∧ u.acknowledges = false ∧
      ∀ v : State, v.run = .running → v.cs.ir = u.cs.ir → v.ira = u.ira → v.ccs = u.ccs → v.iahs = u.iahs →
        v.cs.ie = u.cs.ie → v.cs.save = u.cs.save →
        ∃ t, exec .rtir v = .next t ∧ t.pc = w.pc ∧ t.cc = w.cc ∧ t.iah = w.iah ∧ t.cs.ir = false ∧
          t.cs.ie = w.cs.ie ∧ t.cs.save = w.cs.save
end

