-- ==== Sys2Proof/Laws/Decode.lean ====
section
/-! SUPPORT. The laws of the parts of the decoder and encoder: the five groups of a word and the word, the fields and the
groups built from them, the register numbers under every parameter. -/

namespace Sys2Proof

/-! ## Words and groups -/

@[simp] theorem Groups.ofWord_toWord (g : Groups) : Groups.ofWord g.toWord = g := by
  obtain ⟨hi, a, b, d, o⟩ := g
  simp only [Groups.ofWord, Groups.toWord, Groups.mk.injEq]
  refine ⟨?_, ?_, ?_, ?_, ?_⟩ <;>
  · apply BitVec.eq_of_getLsbD_eq
    intro i h
    simp only [BitVec.getLsbD_extractLsb', BitVec.getLsbD_append]
    rcases i with _ | _ | _ | _ | _ | i <;> first | omega | simp

@[simp] theorem Groups.toWord_ofWord (op : Word) : (Groups.ofWord op).toWord = op := by
  apply BitVec.eq_of_getLsbD_eq
  intro i h
  simp only [Groups.ofWord, Groups.toWord, BitVec.getLsbD_extractLsb', BitVec.getLsbD_append]
  rcases i with _ | _ | _ | _ | _ | _ | _ | _ | _ | _ | _ | _ | _ | _ | _ | _ | i <;> first | omega | simp

/-! ## Register numbers -/

@[simp] theorem GReg.ofNum_num (r : GReg) : GReg.ofNum r.num = r := by cases r <;> rfl

@[simp] theorem GReg.num_ofNum (n : BitVec 3) : (GReg.ofNum n).num = n := by revert n; decide

/-- The place of the number at a place. -/
@[simp] theorem Perm4.placeOf_at (p : Perm4) (k : BitVec 2) : p.placeOf (p.at k) = k := by
  obtain ⟨p0, p1, p2, p3, h⟩ := p
  revert p0 p1 p2 p3 k
  decide

/-- The number at the place of a number. -/
@[simp] theorem Perm4.at_placeOf (p : Perm4) (n : BitVec 2) : p.at (p.placeOf n) = n := by
  obtain ⟨p0, p1, p2, p3, h⟩ := p
  revert p0 p1 p2 p3 n
  decide

@[simp] theorem AReg.ofNum_num (e : Encoding) (a : AReg) : AReg.ofNum e (a.num e) = a := by
  cases a <;> simp [AReg.ofNum, AReg.num]

theorem bv2_cases (k : BitVec 2) : k = 0#2 ∨ k = 1#2 ∨ k = 2#2 ∨ k = 3#2 := by revert k; decide

@[simp] theorem AReg.num_ofNum (e : Encoding) (n : BitVec 2) : (AReg.ofNum e n).num e = n := by
  have h := Perm4.at_placeOf e.anNum n
  rcases bv2_cases (e.anNum.placeOf n) with hk | hk | hk | hk <;> rw [hk] at h <;> simp [AReg.ofNum, AReg.num, hk, h]

theorem low2_append (c : BitVec 1) (n : BitVec 2) : (c ++ n).extractLsb' 0 2 = n := by revert c n; decide

theorem top1_append (c : BitVec 1) (n : BitVec 2) : (c ++ n).extractLsb' 2 1 = c := by revert c n; decide

theorem append_of_three (n : BitVec 3) : n.extractLsb' 2 1 ++ n.extractLsb' 0 2 = n := by revert n; decide

@[simp] theorem SReg.ofNum_num (e : Encoding) (k : SReg) : SReg.ofNum e (k.num e) = k := by
  cases k <;> simp [SReg.ofNum, SReg.num, low2_append, top1_append, SReg.ofLow, SReg.ofHigh]

theorem bv1_cases (c : BitVec 1) : c = 0 ∨ c = 1 := by revert c; decide

theorem SReg.num_ofLow (e : Encoding) (n : BitVec 2) : (SReg.ofLow e n).num e = 0#1 ++ n := by
  have h := Perm4.at_placeOf e.srLow n
  rcases bv2_cases (e.srLow.placeOf n) with hk | hk | hk | hk <;> rw [hk] at h <;> simp [SReg.ofLow, SReg.num, hk, h]

theorem SReg.num_ofHigh (e : Encoding) (n : BitVec 2) : (SReg.ofHigh e n).num e = 1#1 ++ n := by
  have h := Perm4.at_placeOf e.srHigh n
  rcases bv2_cases (e.srHigh.placeOf n) with hk | hk | hk | hk <;> rw [hk] at h <;> simp [SReg.ofHigh, SReg.num, hk, h]

@[simp] theorem SReg.num_ofNum (e : Encoding) (n : BitVec 3) : (SReg.ofNum e n).num e = n := by
  have hn := append_of_three n
  rcases bv1_cases (n.extractLsb' 2 1) with h | h
  · rw [SReg.ofNum, if_pos h, SReg.num_ofLow]; rw [h] at hn; exact hn
  · rw [SReg.ofNum, if_neg (by rw [h]; decide), SReg.num_ofHigh]; rw [h] at hn; exact hn

/-- The low special register with a low number, and back. -/
@[simp] theorem SReg.ofLow_at (e : Encoding) (k : BitVec 2) :
    SReg.ofLow e (e.srLow.at k) = if k = 0 then .cc else if k = 1 then .cs else if k = 2 then .lc else .au := by
  simp [SReg.ofLow]

/-! ## Fields -/

@[simp] theorem reverseFlags_reverseFlags (f : BitVec 7) : reverseFlags (reverseFlags f) = f := by revert f; decide

theorem reverseFlags_ne_zero (f : BitVec 7) : reverseFlags f ≠ 0 ↔ f ≠ 0 := by revert f; decide

/-- The flags of a selection in the order of the other direction. -/
theorem getLsbD_reverseFlags (f : BitVec 7) (k : Fin 7) : (reverseFlags f).getLsbD k = f.getLsbD (6 - k) := by
  revert f k; decide

theorem Groups.byteField_ofByteField (f : BitVec 8) (d : BitVec 3) (o : BitVec 5) :
    (Groups.ofByteField f d o).byteField = f := by
  simp only [Groups.byteField, Groups.ofByteField]; revert f; decide

theorem Groups.da8_ofDirect (f : BitVec 8) (d : BitVec 3) (o : BitVec 5) : (Groups.ofDirect f d o).da8 = f := by
  simp only [Groups.da8, Groups.ofDirect]; revert f; decide

theorem Groups.do5_ofOffset (f : BitVec 5) (an : BitVec 2) (d : BitVec 3) (o : BitVec 5) :
    (Groups.ofOffset f an d o).do5 = f := by
  simp only [Groups.do5, Groups.ofOffset]; revert f; decide

theorem Groups.an_ofOffset (f : BitVec 5) (an : BitVec 2) (d : BitVec 3) (o : BitVec 5) :
    (Groups.ofOffset f an d o).an = an := by
  simp only [Groups.an, Groups.ofOffset]; revert an; decide

theorem Groups.an_ofMode (hi : BitVec 2) (a : BitVec 3) (an : BitVec 2) (d : BitVec 3) (o : BitVec 5) :
    (Groups.ofMode hi a an d o).an = an := by
  simp only [Groups.an, Groups.ofMode]; revert an; decide

theorem Groups.flags7_ofFlags (f : BitVec 7) (an : BitVec 2) (o : BitVec 5) : (Groups.ofFlags f an o).flags7 = f := by
  simp only [Groups.flags7, Groups.ofFlags]; revert f; decide

theorem Groups.an_ofFlags (f : BitVec 7) (an : BitVec 2) (o : BitVec 5) : (Groups.ofFlags f an o).an = an := by
  simp only [Groups.an, Groups.ofFlags]; revert an; decide

theorem Groups.ia12_ofIa12 (f : BitVec 12) (o : BitVec 4) : (Groups.ofIa12 f o).ia12 = f := by
  simp only [Groups.ia12, Groups.ofIa12]
  apply BitVec.eq_of_getLsbD_eq
  intro i h
  simp only [BitVec.getLsbD_extractLsb', BitVec.getLsbD_append]
  rcases i with _ | _ | _ | _ | _ | _ | _ | _ | _ | _ | _ | _ | i <;> first | omega | simp

theorem Groups.iah4_ofCode4 (f : BitVec 4) (o : BitVec 5) : (Groups.ofCode4 f o).iah4 = f := by
  simp only [Groups.iah4, Groups.ofCode4]; revert f; decide

theorem Groups.c7_ofC7 (c : BitVec 7) (n : BitVec 2) (o : BitVec 5) : (Groups.ofC7 c n o).c7 = c := by
  simp only [Groups.c7, Groups.ofC7]; revert c n; decide

theorem Groups.low2_ofC7 (c : BitVec 7) (n : BitVec 2) (o : BitVec 5) : (Groups.ofC7 c n o).low2 = n := by
  simp only [Groups.low2, Groups.ofC7]; revert c n; decide

theorem Groups.count4_ofCount4 (k : BitVec 4) (d : BitVec 3) (o : BitVec 5) : (Groups.ofCount4 k d o).count4 = k := by
  simp only [Groups.count4, Groups.ofCount4]; revert k; decide

/-! ## Groups from their fields -/

theorem Groups.ofByteField_byteField (g : Groups) : Groups.ofByteField g.byteField g.d g.o = g := by
  obtain ⟨hi, a, b, d, o⟩ := g
  simp only [Groups.byteField, Groups.ofByteField, Groups.mk.injEq, and_true]
  revert hi a b; decide

theorem Groups.ofDirect_da8 (g : Groups) : Groups.ofDirect g.da8 g.d g.o = g := by
  obtain ⟨hi, a, b, d, o⟩ := g
  simp only [Groups.da8, Groups.ofDirect, Groups.mk.injEq, and_true]
  revert hi a b; decide

theorem Groups.ofOffset_do5 (g : Groups) (h : g.b.extractLsb' 2 1 = 0) : Groups.ofOffset g.do5 g.an g.d g.o = g := by
  obtain ⟨hi, a, b, d, o⟩ := g
  simp only [Groups.do5, Groups.an, Groups.ofOffset, Groups.mk.injEq, and_true] at h ⊢
  revert hi a b; decide

theorem Groups.ofMode_an (g : Groups) (h : g.b.extractLsb' 2 1 ≠ 0) : Groups.ofMode g.hi g.a g.an g.d g.o = g := by
  obtain ⟨hi, a, b, d, o⟩ := g
  simp only [Groups.an, Groups.ofMode, Groups.mk.injEq, and_true, true_and] at h ⊢
  revert b; decide

theorem Groups.ofFlags_flags7 (g : Groups) (h : g.b.extractLsb' 2 1 ≠ 0) (hh : g.hi.extractLsb' 1 1 ≠ 0) :
    Groups.ofFlags g.flags7 g.an g.o = g := by
  obtain ⟨hi, a, b, d, o⟩ := g
  simp only [Groups.flags7, Groups.an, Groups.ofFlags, Groups.mk.injEq, and_true] at h hh ⊢
  revert hi a b d; decide

theorem Groups.ofIa12_ia12 (g : Groups) : Groups.ofIa12 g.ia12 (g.o.extractLsb' 0 4) = g := by
  obtain ⟨hi, a, b, d, o⟩ := g
  simp only [Groups.ia12, Groups.ofIa12, Groups.mk.injEq]
  refine ⟨?_, ?_, ?_, ?_, ?_⟩ <;>
  · apply BitVec.eq_of_getLsbD_eq
    intro i h
    simp only [BitVec.getLsbD_extractLsb', BitVec.getLsbD_append]
    rcases i with _ | _ | _ | _ | _ | i <;> first | omega | simp

theorem Groups.ofC7_c7 (g : Groups) (h : g.hi = 0b10#2) : Groups.ofC7 g.c7 g.low2 g.o = g := by
  obtain ⟨hi, a, b, d, o⟩ := g
  simp only at h
  subst h
  simp only [Groups.c7, Groups.low2, Groups.ofC7, Groups.mk.injEq, and_true, true_and]
  revert a b d; decide

theorem Groups.ofCount4_count4 (g : Groups) (h : g.hi = 0b11#2) (hb : g.an = 0b10#2) :
    Groups.ofCount4 g.count4 g.d g.o = g := by
  obtain ⟨hi, a, b, d, o⟩ := g
  simp only [Groups.an] at h hb
  subst h
  simp only [Groups.count4, Groups.ofCount4, Groups.mk.injEq, and_true, true_and]
  revert a b; decide

end Sys2Proof
end

