-- ==== Sys2Proof/Laws/State.lean ====
section
/-! SUPPORT. One lemma for each field of State after each named update (LEAN style: no later proof unfolds a record
update), and the register file's read-after-write laws. -/

namespace Sys2Proof.Machine

@[simp] theorem State.setReg_cfg (s : State) (r : GReg) (v : Word) : (s.setReg r v).cfg = s.cfg := rfl
@[simp] theorem State.setReg_x (s : State) (r : GReg) (v : Word) : (s.setReg r v).x = s.x.set r v := rfl
@[simp] theorem State.setReg_pc (s : State) (r : GReg) (v : Word) : (s.setReg r v).pc = s.pc := rfl
@[simp] theorem State.setReg_cc (s : State) (r : GReg) (v : Word) : (s.setReg r v).cc = s.cc := rfl
@[simp] theorem State.setReg_cs (s : State) (r : GReg) (v : Word) : (s.setReg r v).cs = s.cs := rfl
@[simp] theorem State.setReg_lc (s : State) (r : GReg) (v : Word) : (s.setReg r v).lc = s.lc := rfl
@[simp] theorem State.setReg_au (s : State) (r : GReg) (v : Word) : (s.setReg r v).au = s.au := rfl
@[simp] theorem State.setReg_sp (s : State) (r : GReg) (v : Word) : (s.setReg r v).sp = s.sp := rfl
@[simp] theorem State.setReg_ta (s : State) (r : GReg) (v : Word) : (s.setReg r v).ta = s.ta := rfl
@[simp] theorem State.setReg_sa (s : State) (r : GReg) (v : Word) : (s.setReg r v).sa = s.sa := rfl
@[simp] theorem State.setReg_ira (s : State) (r : GReg) (v : Word) : (s.setReg r v).ira = s.ira := rfl
@[simp] theorem State.setReg_ccs (s : State) (r : GReg) (v : Word) : (s.setReg r v).ccs = s.ccs := rfl
@[simp] theorem State.setReg_iah (s : State) (r : GReg) (v : Word) : (s.setReg r v).iah = s.iah := rfl
@[simp] theorem State.setReg_iahs (s : State) (r : GReg) (v : Word) : (s.setReg r v).iahs = s.iahs := rfl
@[simp] theorem State.setReg_run (s : State) (r : GReg) (v : Word) : (s.setReg r v).run = s.run := rfl
@[simp] theorem State.setReg_dbgo (s : State) (r : GReg) (v : Word) : (s.setReg r v).dbgo = s.dbgo := rfl
@[simp] theorem State.setReg_lastPc (s : State) (r : GReg) (v : Word) : (s.setReg r v).lastPc = s.lastPc := rfl
@[simp] theorem State.setReg_imem (s : State) (r : GReg) (v : Word) : (s.setReg r v).imem = s.imem := rfl
@[simp] theorem State.setReg_dmem (s : State) (r : GReg) (v : Word) : (s.setReg r v).dmem = s.dmem := rfl
@[simp] theorem State.setReg_iack (s : State) (r : GReg) (v : Word) : (s.setReg r v).iack = s.iack := rfl
@[simp] theorem State.setReg_pins (s : State) (r : GReg) (v : Word) : (s.setReg r v).pins = s.pins := rfl
@[simp] theorem State.setReg_inputs (s : State) (r : GReg) (v : Word) : (s.setReg r v).inputs = s.inputs := rfl
@[simp] theorem State.setReg_draws (s : State) (r : GReg) (v : Word) : (s.setReg r v).draws = s.draws := rfl

@[simp] theorem State.setCc_cfg (s : State) (f : Flags): (s.setCc f).cfg = s.cfg := rfl
@[simp] theorem State.setCc_x (s : State) (f : Flags): (s.setCc f).x = s.x := rfl
@[simp] theorem State.setCc_pc (s : State) (f : Flags): (s.setCc f).pc = s.pc := rfl
@[simp] theorem State.setCc_cc (s : State) (f : Flags): (s.setCc f).cc = f := rfl
@[simp] theorem State.setCc_cs (s : State) (f : Flags): (s.setCc f).cs = s.cs := rfl
@[simp] theorem State.setCc_lc (s : State) (f : Flags): (s.setCc f).lc = s.lc := rfl
@[simp] theorem State.setCc_au (s : State) (f : Flags): (s.setCc f).au = s.au := rfl
@[simp] theorem State.setCc_sp (s : State) (f : Flags): (s.setCc f).sp = s.sp := rfl
@[simp] theorem State.setCc_ta (s : State) (f : Flags): (s.setCc f).ta = s.ta := rfl
@[simp] theorem State.setCc_sa (s : State) (f : Flags): (s.setCc f).sa = s.sa := rfl
@[simp] theorem State.setCc_ira (s : State) (f : Flags): (s.setCc f).ira = s.ira := rfl
@[simp] theorem State.setCc_ccs (s : State) (f : Flags): (s.setCc f).ccs = s.ccs := rfl
@[simp] theorem State.setCc_iah (s : State) (f : Flags): (s.setCc f).iah = s.iah := rfl
@[simp] theorem State.setCc_iahs (s : State) (f : Flags): (s.setCc f).iahs = s.iahs := rfl
@[simp] theorem State.setCc_run (s : State) (f : Flags): (s.setCc f).run = s.run := rfl
@[simp] theorem State.setCc_dbgo (s : State) (f : Flags): (s.setCc f).dbgo = s.dbgo := rfl
@[simp] theorem State.setCc_lastPc (s : State) (f : Flags): (s.setCc f).lastPc = s.lastPc := rfl
@[simp] theorem State.setCc_imem (s : State) (f : Flags): (s.setCc f).imem = s.imem := rfl
@[simp] theorem State.setCc_dmem (s : State) (f : Flags): (s.setCc f).dmem = s.dmem := rfl
@[simp] theorem State.setCc_iack (s : State) (f : Flags): (s.setCc f).iack = s.iack := rfl
@[simp] theorem State.setCc_pins (s : State) (f : Flags): (s.setCc f).pins = s.pins := rfl
@[simp] theorem State.setCc_inputs (s : State) (f : Flags): (s.setCc f).inputs = s.inputs := rfl
@[simp] theorem State.setCc_draws (s : State) (f : Flags): (s.setCc f).draws = s.draws := rfl

@[simp] theorem State.setAreg_cfg (s : State) (a : AReg) (v : Word) : (s.setAreg a v).cfg = s.cfg := by cases a <;> rfl
@[simp] theorem State.setAreg_pc (s : State) (a : AReg) (v : Word) : (s.setAreg a v).pc = s.pc := by cases a <;> rfl
@[simp] theorem State.setAreg_cc (s : State) (a : AReg) (v : Word) : (s.setAreg a v).cc = s.cc := by cases a <;> rfl
@[simp] theorem State.setAreg_cs (s : State) (a : AReg) (v : Word) : (s.setAreg a v).cs = s.cs := by cases a <;> rfl
@[simp] theorem State.setAreg_lc (s : State) (a : AReg) (v : Word) : (s.setAreg a v).lc = s.lc := by cases a <;> rfl
@[simp] theorem State.setAreg_au (s : State) (a : AReg) (v : Word) : (s.setAreg a v).au = s.au := by cases a <;> rfl
@[simp] theorem State.setAreg_sa (s : State) (a : AReg) (v : Word) : (s.setAreg a v).sa = s.sa := by cases a <;> rfl
@[simp] theorem State.setAreg_ira (s : State) (a : AReg) (v : Word) : (s.setAreg a v).ira = s.ira := by cases a <;> rfl
@[simp] theorem State.setAreg_ccs (s : State) (a : AReg) (v : Word) : (s.setAreg a v).ccs = s.ccs := by cases a <;> rfl
@[simp] theorem State.setAreg_iah (s : State) (a : AReg) (v : Word) : (s.setAreg a v).iah = s.iah := by cases a <;> rfl
@[simp] theorem State.setAreg_iahs (s : State) (a : AReg) (v : Word) : (s.setAreg a v).iahs = s.iahs := by cases a <;> rfl
@[simp] theorem State.setAreg_run (s : State) (a : AReg) (v : Word) : (s.setAreg a v).run = s.run := by cases a <;> rfl
@[simp] theorem State.setAreg_dbgo (s : State) (a : AReg) (v : Word) : (s.setAreg a v).dbgo = s.dbgo := by cases a <;> rfl
@[simp] theorem State.setAreg_lastPc (s : State) (a : AReg) (v : Word) : (s.setAreg a v).lastPc = s.lastPc := by cases a <;> rfl
@[simp] theorem State.setAreg_imem (s : State) (a : AReg) (v : Word) : (s.setAreg a v).imem = s.imem := by cases a <;> rfl
@[simp] theorem State.setAreg_dmem (s : State) (a : AReg) (v : Word) : (s.setAreg a v).dmem = s.dmem := by cases a <;> rfl
@[simp] theorem State.setAreg_iack (s : State) (a : AReg) (v : Word) : (s.setAreg a v).iack = s.iack := by cases a <;> rfl
@[simp] theorem State.setAreg_pins (s : State) (a : AReg) (v : Word) : (s.setAreg a v).pins = s.pins := by cases a <;> rfl
@[simp] theorem State.setAreg_inputs (s : State) (a : AReg) (v : Word) : (s.setAreg a v).inputs = s.inputs := by cases a <;> rfl
@[simp] theorem State.setAreg_draws (s : State) (a : AReg) (v : Word) : (s.setAreg a v).draws = s.draws := by cases a <;> rfl

@[simp] theorem State.setSreg_cfg (s : State) (k : SReg) (v : Word) : (s.setSreg k v).cfg = s.cfg := by
  cases k <;> simp only [State.setSreg]
  split <;> rfl
@[simp] theorem State.setSreg_x (s : State) (k : SReg) (v : Word) : (s.setSreg k v).x = s.x := by
  cases k <;> simp only [State.setSreg]
  split <;> rfl
@[simp] theorem State.setSreg_pc (s : State) (k : SReg) (v : Word) : (s.setSreg k v).pc = s.pc := by
  cases k <;> simp only [State.setSreg]
  split <;> rfl
@[simp] theorem State.setSreg_ccs (s : State) (k : SReg) (v : Word) : (s.setSreg k v).ccs = s.ccs := by
  cases k <;> simp only [State.setSreg]
  split <;> rfl
@[simp] theorem State.setSreg_iah (s : State) (k : SReg) (v : Word) : (s.setSreg k v).iah = s.iah := by
  cases k <;> simp only [State.setSreg]
  split <;> rfl
@[simp] theorem State.setSreg_iahs (s : State) (k : SReg) (v : Word) : (s.setSreg k v).iahs = s.iahs := by
  cases k <;> simp only [State.setSreg]
  split <;> rfl
@[simp] theorem State.setSreg_run (s : State) (k : SReg) (v : Word) : (s.setSreg k v).run = s.run := by
  cases k <;> simp only [State.setSreg]
  split <;> rfl
@[simp] theorem State.setSreg_dbgo (s : State) (k : SReg) (v : Word) : (s.setSreg k v).dbgo = s.dbgo := by
  cases k <;> simp only [State.setSreg]
  split <;> rfl
@[simp] theorem State.setSreg_lastPc (s : State) (k : SReg) (v : Word) : (s.setSreg k v).lastPc = s.lastPc := by
  cases k <;> simp only [State.setSreg]
  split <;> rfl
@[simp] theorem State.setSreg_imem (s : State) (k : SReg) (v : Word) : (s.setSreg k v).imem = s.imem := by
  cases k <;> simp only [State.setSreg]
  split <;> rfl
@[simp] theorem State.setSreg_dmem (s : State) (k : SReg) (v : Word) : (s.setSreg k v).dmem = s.dmem := by
  cases k <;> simp only [State.setSreg]
  split <;> rfl
@[simp] theorem State.setSreg_iack (s : State) (k : SReg) (v : Word) : (s.setSreg k v).iack = s.iack := by
  cases k <;> simp only [State.setSreg]
  split <;> rfl
@[simp] theorem State.setSreg_pins (s : State) (k : SReg) (v : Word) : (s.setSreg k v).pins = s.pins := by
  cases k <;> simp only [State.setSreg]
  split <;> rfl
@[simp] theorem State.setSreg_inputs (s : State) (k : SReg) (v : Word) : (s.setSreg k v).inputs = s.inputs := by
  cases k <;> simp only [State.setSreg]
  split <;> rfl
@[simp] theorem State.setSreg_draws (s : State) (k : SReg) (v : Word) : (s.setSreg k v).draws = s.draws := by
  cases k <;> simp only [State.setSreg]
  split <;> rfl

@[simp] theorem State.setSlot_cfg (s : State) (k : Slot) (v : Word) : (s.setSlot k v).cfg = s.cfg := by cases k <;> rfl
@[simp] theorem State.setSlot_pc (s : State) (k : Slot) (v : Word) : (s.setSlot k v).pc = s.pc := by cases k <;> rfl
@[simp] theorem State.setSlot_cc (s : State) (k : Slot) (v : Word) : (s.setSlot k v).cc = s.cc := by cases k <;> rfl
@[simp] theorem State.setSlot_cs (s : State) (k : Slot) (v : Word) : (s.setSlot k v).cs = s.cs := by cases k <;> rfl
@[simp] theorem State.setSlot_lc (s : State) (k : Slot) (v : Word) : (s.setSlot k v).lc = s.lc := by cases k <;> rfl
@[simp] theorem State.setSlot_au (s : State) (k : Slot) (v : Word) : (s.setSlot k v).au = s.au := by cases k <;> rfl
@[simp] theorem State.setSlot_sp (s : State) (k : Slot) (v : Word) : (s.setSlot k v).sp = s.sp := by cases k <;> rfl
@[simp] theorem State.setSlot_ira (s : State) (k : Slot) (v : Word) : (s.setSlot k v).ira = s.ira := by cases k <;> rfl
@[simp] theorem State.setSlot_ccs (s : State) (k : Slot) (v : Word) : (s.setSlot k v).ccs = s.ccs := by cases k <;> rfl
@[simp] theorem State.setSlot_iah (s : State) (k : Slot) (v : Word) : (s.setSlot k v).iah = s.iah := by cases k <;> rfl
@[simp] theorem State.setSlot_iahs (s : State) (k : Slot) (v : Word) : (s.setSlot k v).iahs = s.iahs := by cases k <;> rfl
@[simp] theorem State.setSlot_run (s : State) (k : Slot) (v : Word) : (s.setSlot k v).run = s.run := by cases k <;> rfl
@[simp] theorem State.setSlot_dbgo (s : State) (k : Slot) (v : Word) : (s.setSlot k v).dbgo = s.dbgo := by cases k <;> rfl
@[simp] theorem State.setSlot_lastPc (s : State) (k : Slot) (v : Word) : (s.setSlot k v).lastPc = s.lastPc := by cases k <;> rfl
@[simp] theorem State.setSlot_imem (s : State) (k : Slot) (v : Word) : (s.setSlot k v).imem = s.imem := by cases k <;> rfl
@[simp] theorem State.setSlot_dmem (s : State) (k : Slot) (v : Word) : (s.setSlot k v).dmem = s.dmem := by cases k <;> rfl
@[simp] theorem State.setSlot_iack (s : State) (k : Slot) (v : Word) : (s.setSlot k v).iack = s.iack := by cases k <;> rfl
@[simp] theorem State.setSlot_pins (s : State) (k : Slot) (v : Word) : (s.setSlot k v).pins = s.pins := by cases k <;> rfl
@[simp] theorem State.setSlot_inputs (s : State) (k : Slot) (v : Word) : (s.setSlot k v).inputs = s.inputs := by cases k <;> rfl
@[simp] theorem State.setSlot_draws (s : State) (k : Slot) (v : Word) : (s.setSlot k v).draws = s.draws := by cases k <;> rfl

@[simp] theorem State.advancePc_cfg (s : State) : (s.advancePc).cfg = s.cfg := rfl
@[simp] theorem State.advancePc_x (s : State) : (s.advancePc).x = s.x := rfl
@[simp] theorem State.advancePc_cc (s : State) : (s.advancePc).cc = s.cc := rfl
@[simp] theorem State.advancePc_cs (s : State) : (s.advancePc).cs = s.cs := rfl
@[simp] theorem State.advancePc_lc (s : State) : (s.advancePc).lc = s.lc := rfl
@[simp] theorem State.advancePc_au (s : State) : (s.advancePc).au = s.au := rfl
@[simp] theorem State.advancePc_sp (s : State) : (s.advancePc).sp = s.sp := rfl
@[simp] theorem State.advancePc_ta (s : State) : (s.advancePc).ta = s.ta := rfl
@[simp] theorem State.advancePc_sa (s : State) : (s.advancePc).sa = s.sa := rfl
@[simp] theorem State.advancePc_ira (s : State) : (s.advancePc).ira = s.ira := rfl
@[simp] theorem State.advancePc_ccs (s : State) : (s.advancePc).ccs = s.ccs := rfl
@[simp] theorem State.advancePc_iah (s : State) : (s.advancePc).iah = s.iah := rfl
@[simp] theorem State.advancePc_iahs (s : State) : (s.advancePc).iahs = s.iahs := rfl
@[simp] theorem State.advancePc_run (s : State) : (s.advancePc).run = s.run := rfl
@[simp] theorem State.advancePc_dbgo (s : State) : (s.advancePc).dbgo = s.dbgo := rfl
@[simp] theorem State.advancePc_lastPc (s : State) : (s.advancePc).lastPc = s.lastPc := rfl
@[simp] theorem State.advancePc_imem (s : State) : (s.advancePc).imem = s.imem := rfl
@[simp] theorem State.advancePc_dmem (s : State) : (s.advancePc).dmem = s.dmem := rfl
@[simp] theorem State.advancePc_iack (s : State) : (s.advancePc).iack = s.iack := rfl
@[simp] theorem State.advancePc_pins (s : State) : (s.advancePc).pins = s.pins := rfl
@[simp] theorem State.advancePc_inputs (s : State) : (s.advancePc).inputs = s.inputs := rfl
@[simp] theorem State.advancePc_draws (s : State) : (s.advancePc).draws = s.draws := rfl

@[simp] theorem State.noteExecuted_cfg (s : State) (a : Word) : (s.noteExecuted a).cfg = s.cfg := rfl
@[simp] theorem State.noteExecuted_x (s : State) (a : Word) : (s.noteExecuted a).x = s.x := rfl
@[simp] theorem State.noteExecuted_pc (s : State) (a : Word) : (s.noteExecuted a).pc = s.pc := rfl
@[simp] theorem State.noteExecuted_cc (s : State) (a : Word) : (s.noteExecuted a).cc = s.cc := rfl
@[simp] theorem State.noteExecuted_cs (s : State) (a : Word) : (s.noteExecuted a).cs = s.cs := rfl
@[simp] theorem State.noteExecuted_lc (s : State) (a : Word) : (s.noteExecuted a).lc = s.lc := rfl
@[simp] theorem State.noteExecuted_au (s : State) (a : Word) : (s.noteExecuted a).au = s.au := rfl
@[simp] theorem State.noteExecuted_sp (s : State) (a : Word) : (s.noteExecuted a).sp = s.sp := rfl
@[simp] theorem State.noteExecuted_ta (s : State) (a : Word) : (s.noteExecuted a).ta = s.ta := rfl
@[simp] theorem State.noteExecuted_sa (s : State) (a : Word) : (s.noteExecuted a).sa = s.sa := rfl
@[simp] theorem State.noteExecuted_ira (s : State) (a : Word) : (s.noteExecuted a).ira = s.ira := rfl
@[simp] theorem State.noteExecuted_ccs (s : State) (a : Word) : (s.noteExecuted a).ccs = s.ccs := rfl
@[simp] theorem State.noteExecuted_iah (s : State) (a : Word) : (s.noteExecuted a).iah = s.iah := rfl
@[simp] theorem State.noteExecuted_iahs (s : State) (a : Word) : (s.noteExecuted a).iahs = s.iahs := rfl
@[simp] theorem State.noteExecuted_run (s : State) (a : Word) : (s.noteExecuted a).run = s.run := rfl
@[simp] theorem State.noteExecuted_dbgo (s : State) (a : Word) : (s.noteExecuted a).dbgo = s.dbgo := rfl
@[simp] theorem State.noteExecuted_lastPc (s : State) (a : Word) : (s.noteExecuted a).lastPc = a := rfl
@[simp] theorem State.noteExecuted_imem (s : State) (a : Word) : (s.noteExecuted a).imem = s.imem := rfl
@[simp] theorem State.noteExecuted_dmem (s : State) (a : Word) : (s.noteExecuted a).dmem = s.dmem := rfl
@[simp] theorem State.noteExecuted_iack (s : State) (a : Word) : (s.noteExecuted a).iack = s.iack := rfl
@[simp] theorem State.noteExecuted_pins (s : State) (a : Word) : (s.noteExecuted a).pins = s.pins := rfl
@[simp] theorem State.noteExecuted_inputs (s : State) (a : Word) : (s.noteExecuted a).inputs = s.inputs := rfl
@[simp] theorem State.noteExecuted_draws (s : State) (a : Word) : (s.noteExecuted a).draws = s.draws := rfl

@[simp] theorem State.writeByte_cfg (s : State) (a : Word) (b : Byte): (s.writeByte a b).cfg = s.cfg := rfl
@[simp] theorem State.writeByte_x (s : State) (a : Word) (b : Byte): (s.writeByte a b).x = s.x := rfl
@[simp] theorem State.writeByte_pc (s : State) (a : Word) (b : Byte): (s.writeByte a b).pc = s.pc := rfl
@[simp] theorem State.writeByte_cc (s : State) (a : Word) (b : Byte): (s.writeByte a b).cc = s.cc := rfl
@[simp] theorem State.writeByte_cs (s : State) (a : Word) (b : Byte): (s.writeByte a b).cs = s.cs := rfl
@[simp] theorem State.writeByte_lc (s : State) (a : Word) (b : Byte): (s.writeByte a b).lc = s.lc := rfl
@[simp] theorem State.writeByte_au (s : State) (a : Word) (b : Byte): (s.writeByte a b).au = s.au := rfl
@[simp] theorem State.writeByte_sp (s : State) (a : Word) (b : Byte): (s.writeByte a b).sp = s.sp := rfl
@[simp] theorem State.writeByte_ta (s : State) (a : Word) (b : Byte): (s.writeByte a b).ta = s.ta := rfl
@[simp] theorem State.writeByte_sa (s : State) (a : Word) (b : Byte): (s.writeByte a b).sa = s.sa := rfl
@[simp] theorem State.writeByte_ira (s : State) (a : Word) (b : Byte): (s.writeByte a b).ira = s.ira := rfl
@[simp] theorem State.writeByte_ccs (s : State) (a : Word) (b : Byte): (s.writeByte a b).ccs = s.ccs := rfl
@[simp] theorem State.writeByte_iah (s : State) (a : Word) (b : Byte): (s.writeByte a b).iah = s.iah := rfl
@[simp] theorem State.writeByte_iahs (s : State) (a : Word) (b : Byte): (s.writeByte a b).iahs = s.iahs := rfl
@[simp] theorem State.writeByte_run (s : State) (a : Word) (b : Byte): (s.writeByte a b).run = s.run := rfl
@[simp] theorem State.writeByte_dbgo (s : State) (a : Word) (b : Byte): (s.writeByte a b).dbgo = s.dbgo := rfl
@[simp] theorem State.writeByte_lastPc (s : State) (a : Word) (b : Byte): (s.writeByte a b).lastPc = s.lastPc := rfl
@[simp] theorem State.writeByte_iack (s : State) (a : Word) (b : Byte): (s.writeByte a b).iack = s.iack := rfl
@[simp] theorem State.writeByte_pins (s : State) (a : Word) (b : Byte): (s.writeByte a b).pins = s.pins := rfl
@[simp] theorem State.writeByte_inputs (s : State) (a : Word) (b : Byte): (s.writeByte a b).inputs = s.inputs := rfl
@[simp] theorem State.writeByte_draws (s : State) (a : Word) (b : Byte): (s.writeByte a b).draws = s.draws := rfl

@[simp] theorem State.writeShort_cfg (s : State) (a : Word) (v : Word) : (s.writeShort a v).cfg = s.cfg := rfl
@[simp] theorem State.writeShort_x (s : State) (a : Word) (v : Word) : (s.writeShort a v).x = s.x := rfl
@[simp] theorem State.writeShort_pc (s : State) (a : Word) (v : Word) : (s.writeShort a v).pc = s.pc := rfl
@[simp] theorem State.writeShort_cc (s : State) (a : Word) (v : Word) : (s.writeShort a v).cc = s.cc := rfl
@[simp] theorem State.writeShort_cs (s : State) (a : Word) (v : Word) : (s.writeShort a v).cs = s.cs := rfl
@[simp] theorem State.writeShort_lc (s : State) (a : Word) (v : Word) : (s.writeShort a v).lc = s.lc := rfl
@[simp] theorem State.writeShort_au (s : State) (a : Word) (v : Word) : (s.writeShort a v).au = s.au := rfl
@[simp] theorem State.writeShort_sp (s : State) (a : Word) (v : Word) : (s.writeShort a v).sp = s.sp := rfl
@[simp] theorem State.writeShort_ta (s : State) (a : Word) (v : Word) : (s.writeShort a v).ta = s.ta := rfl
@[simp] theorem State.writeShort_sa (s : State) (a : Word) (v : Word) : (s.writeShort a v).sa = s.sa := rfl
@[simp] theorem State.writeShort_ira (s : State) (a : Word) (v : Word) : (s.writeShort a v).ira = s.ira := rfl
@[simp] theorem State.writeShort_ccs (s : State) (a : Word) (v : Word) : (s.writeShort a v).ccs = s.ccs := rfl
@[simp] theorem State.writeShort_iah (s : State) (a : Word) (v : Word) : (s.writeShort a v).iah = s.iah := rfl
@[simp] theorem State.writeShort_iahs (s : State) (a : Word) (v : Word) : (s.writeShort a v).iahs = s.iahs := rfl
@[simp] theorem State.writeShort_run (s : State) (a : Word) (v : Word) : (s.writeShort a v).run = s.run := rfl
@[simp] theorem State.writeShort_dbgo (s : State) (a : Word) (v : Word) : (s.writeShort a v).dbgo = s.dbgo := rfl
@[simp] theorem State.writeShort_lastPc (s : State) (a : Word) (v : Word) : (s.writeShort a v).lastPc = s.lastPc := rfl
@[simp] theorem State.writeShort_iack (s : State) (a : Word) (v : Word) : (s.writeShort a v).iack = s.iack := rfl
@[simp] theorem State.writeShort_pins (s : State) (a : Word) (v : Word) : (s.writeShort a v).pins = s.pins := rfl
@[simp] theorem State.writeShort_inputs (s : State) (a : Word) (v : Word) : (s.writeShort a v).inputs = s.inputs := rfl
@[simp] theorem State.writeShort_draws (s : State) (a : Word) (v : Word) : (s.writeShort a v).draws = s.draws := rfl

@[simp] theorem State.store_cfg (s : State) (z : Size) (a : Word) (v : Word) : (s.store z a v).cfg = s.cfg := by cases z <;> rfl
@[simp] theorem State.store_x (s : State) (z : Size) (a : Word) (v : Word) : (s.store z a v).x = s.x := by cases z <;> rfl
@[simp] theorem State.store_pc (s : State) (z : Size) (a : Word) (v : Word) : (s.store z a v).pc = s.pc := by cases z <;> rfl
@[simp] theorem State.store_cc (s : State) (z : Size) (a : Word) (v : Word) : (s.store z a v).cc = s.cc := by cases z <;> rfl
@[simp] theorem State.store_cs (s : State) (z : Size) (a : Word) (v : Word) : (s.store z a v).cs = s.cs := by cases z <;> rfl
@[simp] theorem State.store_lc (s : State) (z : Size) (a : Word) (v : Word) : (s.store z a v).lc = s.lc := by cases z <;> rfl
@[simp] theorem State.store_au (s : State) (z : Size) (a : Word) (v : Word) : (s.store z a v).au = s.au := by cases z <;> rfl
@[simp] theorem State.store_sp (s : State) (z : Size) (a : Word) (v : Word) : (s.store z a v).sp = s.sp := by cases z <;> rfl
@[simp] theorem State.store_ta (s : State) (z : Size) (a : Word) (v : Word) : (s.store z a v).ta = s.ta := by cases z <;> rfl
@[simp] theorem State.store_sa (s : State) (z : Size) (a : Word) (v : Word) : (s.store z a v).sa = s.sa := by cases z <;> rfl
@[simp] theorem State.store_ira (s : State) (z : Size) (a : Word) (v : Word) : (s.store z a v).ira = s.ira := by cases z <;> rfl
@[simp] theorem State.store_ccs (s : State) (z : Size) (a : Word) (v : Word) : (s.store z a v).ccs = s.ccs := by cases z <;> rfl
@[simp] theorem State.store_iah (s : State) (z : Size) (a : Word) (v : Word) : (s.store z a v).iah = s.iah := by cases z <;> rfl
@[simp] theorem State.store_iahs (s : State) (z : Size) (a : Word) (v : Word) : (s.store z a v).iahs = s.iahs := by cases z <;> rfl
@[simp] theorem State.store_run (s : State) (z : Size) (a : Word) (v : Word) : (s.store z a v).run = s.run := by cases z <;> rfl
@[simp] theorem State.store_dbgo (s : State) (z : Size) (a : Word) (v : Word) : (s.store z a v).dbgo = s.dbgo := by cases z <;> rfl
@[simp] theorem State.store_lastPc (s : State) (z : Size) (a : Word) (v : Word) : (s.store z a v).lastPc = s.lastPc := by cases z <;> rfl
@[simp] theorem State.store_iack (s : State) (z : Size) (a : Word) (v : Word) : (s.store z a v).iack = s.iack := by cases z <;> rfl
@[simp] theorem State.store_pins (s : State) (z : Size) (a : Word) (v : Word) : (s.store z a v).pins = s.pins := by cases z <;> rfl
@[simp] theorem State.store_inputs (s : State) (z : Size) (a : Word) (v : Word) : (s.store z a v).inputs = s.inputs := by cases z <;> rfl
@[simp] theorem State.store_draws (s : State) (z : Size) (a : Word) (v : Word) : (s.store z a v).draws = s.draws := by cases z <;> rfl

@[simp] theorem State.writeCode_cfg (s : State) (a : Word) (w : Word) : (s.writeCode a w).cfg = s.cfg := rfl
@[simp] theorem State.writeCode_x (s : State) (a : Word) (w : Word) : (s.writeCode a w).x = s.x := rfl
@[simp] theorem State.writeCode_pc (s : State) (a : Word) (w : Word) : (s.writeCode a w).pc = s.pc := rfl
@[simp] theorem State.writeCode_cc (s : State) (a : Word) (w : Word) : (s.writeCode a w).cc = s.cc := rfl
@[simp] theorem State.writeCode_cs (s : State) (a : Word) (w : Word) : (s.writeCode a w).cs = s.cs := rfl
@[simp] theorem State.writeCode_lc (s : State) (a : Word) (w : Word) : (s.writeCode a w).lc = s.lc := rfl
@[simp] theorem State.writeCode_au (s : State) (a : Word) (w : Word) : (s.writeCode a w).au = s.au := rfl
@[simp] theorem State.writeCode_sp (s : State) (a : Word) (w : Word) : (s.writeCode a w).sp = s.sp := rfl
@[simp] theorem State.writeCode_ta (s : State) (a : Word) (w : Word) : (s.writeCode a w).ta = s.ta := rfl
@[simp] theorem State.writeCode_sa (s : State) (a : Word) (w : Word) : (s.writeCode a w).sa = s.sa := rfl
@[simp] theorem State.writeCode_ira (s : State) (a : Word) (w : Word) : (s.writeCode a w).ira = s.ira := rfl
@[simp] theorem State.writeCode_ccs (s : State) (a : Word) (w : Word) : (s.writeCode a w).ccs = s.ccs := rfl
@[simp] theorem State.writeCode_iah (s : State) (a : Word) (w : Word) : (s.writeCode a w).iah = s.iah := rfl
@[simp] theorem State.writeCode_iahs (s : State) (a : Word) (w : Word) : (s.writeCode a w).iahs = s.iahs := rfl
@[simp] theorem State.writeCode_run (s : State) (a : Word) (w : Word) : (s.writeCode a w).run = s.run := rfl
@[simp] theorem State.writeCode_dbgo (s : State) (a : Word) (w : Word) : (s.writeCode a w).dbgo = s.dbgo := rfl
@[simp] theorem State.writeCode_lastPc (s : State) (a : Word) (w : Word) : (s.writeCode a w).lastPc = s.lastPc := rfl
@[simp] theorem State.writeCode_dmem (s : State) (a : Word) (w : Word) : (s.writeCode a w).dmem = s.dmem := rfl
@[simp] theorem State.writeCode_iack (s : State) (a : Word) (w : Word) : (s.writeCode a w).iack = s.iack := rfl
@[simp] theorem State.writeCode_pins (s : State) (a : Word) (w : Word) : (s.writeCode a w).pins = s.pins := rfl
@[simp] theorem State.writeCode_inputs (s : State) (a : Word) (w : Word) : (s.writeCode a w).inputs = s.inputs := rfl
@[simp] theorem State.writeCode_draws (s : State) (a : Word) (w : Word) : (s.writeCode a w).draws = s.draws := rfl

@[simp] theorem State.takeInterrupt_cfg (s : State) (n : BitVec 4): (s.takeInterrupt n).cfg = s.cfg := rfl
@[simp] theorem State.takeInterrupt_x (s : State) (n : BitVec 4): (s.takeInterrupt n).x = s.x := rfl
@[simp] theorem State.takeInterrupt_pc (s : State) (n : BitVec 4): (s.takeInterrupt n).pc = s.readShort (vectorAddress s.cs.ivtp n) := rfl
@[simp] theorem State.takeInterrupt_cc (s : State) (n : BitVec 4): (s.takeInterrupt n).cc = s.cc := rfl
@[simp] theorem State.takeInterrupt_cs (s : State) (n : BitVec 4): (s.takeInterrupt n).cs = { s.cs with ir := true } := rfl
@[simp] theorem State.takeInterrupt_lc (s : State) (n : BitVec 4): (s.takeInterrupt n).lc = s.lc := rfl
@[simp] theorem State.takeInterrupt_au (s : State) (n : BitVec 4): (s.takeInterrupt n).au = s.au := rfl
@[simp] theorem State.takeInterrupt_sp (s : State) (n : BitVec 4): (s.takeInterrupt n).sp = s.sp := rfl
@[simp] theorem State.takeInterrupt_ta (s : State) (n : BitVec 4): (s.takeInterrupt n).ta = s.ta := rfl
@[simp] theorem State.takeInterrupt_sa (s : State) (n : BitVec 4): (s.takeInterrupt n).sa = s.sa := rfl
@[simp] theorem State.takeInterrupt_ira (s : State) (n : BitVec 4): (s.takeInterrupt n).ira = s.pc := rfl
@[simp] theorem State.takeInterrupt_ccs (s : State) (n : BitVec 4): (s.takeInterrupt n).ccs = s.cc := rfl
@[simp] theorem State.takeInterrupt_iah (s : State) (n : BitVec 4): (s.takeInterrupt n).iah = 0 := rfl
@[simp] theorem State.takeInterrupt_iahs (s : State) (n : BitVec 4): (s.takeInterrupt n).iahs = s.iah := rfl
@[simp] theorem State.takeInterrupt_run (s : State) (n : BitVec 4): (s.takeInterrupt n).run = s.run := rfl
@[simp] theorem State.takeInterrupt_dbgo (s : State) (n : BitVec 4): (s.takeInterrupt n).dbgo = s.dbgo := rfl
@[simp] theorem State.takeInterrupt_lastPc (s : State) (n : BitVec 4): (s.takeInterrupt n).lastPc = s.lastPc := rfl
@[simp] theorem State.takeInterrupt_imem (s : State) (n : BitVec 4): (s.takeInterrupt n).imem = s.imem := rfl
@[simp] theorem State.takeInterrupt_dmem (s : State) (n : BitVec 4): (s.takeInterrupt n).dmem = s.dmem := rfl
@[simp] theorem State.takeInterrupt_iack (s : State) (n : BitVec 4): (s.takeInterrupt n).iack = s.iack := rfl
@[simp] theorem State.takeInterrupt_pins (s : State) (n : BitVec 4): (s.takeInterrupt n).pins = s.pins := rfl
@[simp] theorem State.takeInterrupt_inputs (s : State) (n : BitVec 4): (s.takeInterrupt n).inputs = s.inputs := rfl
@[simp] theorem State.takeInterrupt_draws (s : State) (n : BitVec 4): (s.takeInterrupt n).draws = s.draws := rfl

@[simp] theorem State.returnFromInterrupt_cfg (s : State) : (s.returnFromInterrupt).cfg = s.cfg := rfl
@[simp] theorem State.returnFromInterrupt_x (s : State) : (s.returnFromInterrupt).x = s.x := rfl
@[simp] theorem State.returnFromInterrupt_pc (s : State) : (s.returnFromInterrupt).pc = s.ira := rfl
@[simp] theorem State.returnFromInterrupt_cc (s : State) : (s.returnFromInterrupt).cc = s.ccs := rfl
@[simp] theorem State.returnFromInterrupt_cs (s : State) : (s.returnFromInterrupt).cs = { s.cs with ir := false } := rfl
@[simp] theorem State.returnFromInterrupt_lc (s : State) : (s.returnFromInterrupt).lc = s.lc := rfl
@[simp] theorem State.returnFromInterrupt_au (s : State) : (s.returnFromInterrupt).au = s.au := rfl
@[simp] theorem State.returnFromInterrupt_sp (s : State) : (s.returnFromInterrupt).sp = s.sp := rfl
@[simp] theorem State.returnFromInterrupt_ta (s : State) : (s.returnFromInterrupt).ta = s.ta := rfl
@[simp] theorem State.returnFromInterrupt_sa (s : State) : (s.returnFromInterrupt).sa = s.sa := rfl
@[simp] theorem State.returnFromInterrupt_ira (s : State) : (s.returnFromInterrupt).ira = s.ira := rfl
@[simp] theorem State.returnFromInterrupt_ccs (s : State) : (s.returnFromInterrupt).ccs = s.ccs := rfl
@[simp] theorem State.returnFromInterrupt_iah (s : State) : (s.returnFromInterrupt).iah = s.iahs := rfl
@[simp] theorem State.returnFromInterrupt_iahs (s : State) : (s.returnFromInterrupt).iahs = s.iahs := rfl
@[simp] theorem State.returnFromInterrupt_run (s : State) : (s.returnFromInterrupt).run = s.run := rfl
@[simp] theorem State.returnFromInterrupt_dbgo (s : State) : (s.returnFromInterrupt).dbgo = s.dbgo := rfl
@[simp] theorem State.returnFromInterrupt_lastPc (s : State) : (s.returnFromInterrupt).lastPc = s.lastPc := rfl
@[simp] theorem State.returnFromInterrupt_imem (s : State) : (s.returnFromInterrupt).imem = s.imem := rfl
@[simp] theorem State.returnFromInterrupt_dmem (s : State) : (s.returnFromInterrupt).dmem = s.dmem := rfl
@[simp] theorem State.returnFromInterrupt_iack (s : State) : (s.returnFromInterrupt).iack = s.iack := rfl
@[simp] theorem State.returnFromInterrupt_pins (s : State) : (s.returnFromInterrupt).pins = s.pins := rfl
@[simp] theorem State.returnFromInterrupt_inputs (s : State) : (s.returnFromInterrupt).inputs = s.inputs := rfl
@[simp] theorem State.returnFromInterrupt_draws (s : State) : (s.returnFromInterrupt).draws = s.draws := rfl

@[simp] theorem State.nextBoundary_cfg (s : State) (b : Bool): (s.nextBoundary b).cfg = s.cfg := rfl
@[simp] theorem State.nextBoundary_x (s : State) (b : Bool): (s.nextBoundary b).x = s.x := rfl
@[simp] theorem State.nextBoundary_pc (s : State) (b : Bool): (s.nextBoundary b).pc = s.pc := rfl
@[simp] theorem State.nextBoundary_cc (s : State) (b : Bool): (s.nextBoundary b).cc = s.cc := rfl
@[simp] theorem State.nextBoundary_cs (s : State) (b : Bool): (s.nextBoundary b).cs = s.cs := rfl
@[simp] theorem State.nextBoundary_lc (s : State) (b : Bool): (s.nextBoundary b).lc = s.lc := rfl
@[simp] theorem State.nextBoundary_au (s : State) (b : Bool): (s.nextBoundary b).au = s.au := rfl
@[simp] theorem State.nextBoundary_sp (s : State) (b : Bool): (s.nextBoundary b).sp = s.sp := rfl
@[simp] theorem State.nextBoundary_ta (s : State) (b : Bool): (s.nextBoundary b).ta = s.ta := rfl
@[simp] theorem State.nextBoundary_sa (s : State) (b : Bool): (s.nextBoundary b).sa = s.sa := rfl
@[simp] theorem State.nextBoundary_ira (s : State) (b : Bool): (s.nextBoundary b).ira = s.ira := rfl
@[simp] theorem State.nextBoundary_ccs (s : State) (b : Bool): (s.nextBoundary b).ccs = s.ccs := rfl
@[simp] theorem State.nextBoundary_iah (s : State) (b : Bool): (s.nextBoundary b).iah = s.iah := rfl
@[simp] theorem State.nextBoundary_iahs (s : State) (b : Bool): (s.nextBoundary b).iahs = s.iahs := rfl
@[simp] theorem State.nextBoundary_run (s : State) (b : Bool): (s.nextBoundary b).run = s.run := rfl
@[simp] theorem State.nextBoundary_dbgo (s : State) (b : Bool): (s.nextBoundary b).dbgo = s.dbgo := rfl
@[simp] theorem State.nextBoundary_lastPc (s : State) (b : Bool): (s.nextBoundary b).lastPc = s.lastPc := rfl
@[simp] theorem State.nextBoundary_imem (s : State) (b : Bool): (s.nextBoundary b).imem = s.imem := rfl
@[simp] theorem State.nextBoundary_dmem (s : State) (b : Bool): (s.nextBoundary b).dmem = s.dmem := rfl
@[simp] theorem State.nextBoundary_iack (s : State) (b : Bool): (s.nextBoundary b).iack = b := rfl
@[simp] theorem State.nextBoundary_inputs (s : State) (b : Bool): (s.nextBoundary b).inputs = s.inputs.tail := rfl
@[simp] theorem State.nextBoundary_draws (s : State) (b : Bool): (s.nextBoundary b).draws = s.draws := rfl

@[simp] theorem State.undisturbed_cfg (s : State) : (s.undisturbed).cfg = s.cfg := rfl
@[simp] theorem State.undisturbed_x (s : State) : (s.undisturbed).x = s.x := rfl
@[simp] theorem State.undisturbed_pc (s : State) : (s.undisturbed).pc = s.pc := rfl
@[simp] theorem State.undisturbed_cc (s : State) : (s.undisturbed).cc = s.cc := rfl
@[simp] theorem State.undisturbed_cs (s : State) : (s.undisturbed).cs = s.cs := rfl
@[simp] theorem State.undisturbed_lc (s : State) : (s.undisturbed).lc = s.lc := rfl
@[simp] theorem State.undisturbed_au (s : State) : (s.undisturbed).au = s.au := rfl
@[simp] theorem State.undisturbed_sp (s : State) : (s.undisturbed).sp = s.sp := rfl
@[simp] theorem State.undisturbed_ta (s : State) : (s.undisturbed).ta = s.ta := rfl
@[simp] theorem State.undisturbed_sa (s : State) : (s.undisturbed).sa = s.sa := rfl
@[simp] theorem State.undisturbed_ira (s : State) : (s.undisturbed).ira = s.ira := rfl
@[simp] theorem State.undisturbed_ccs (s : State) : (s.undisturbed).ccs = s.ccs := rfl
@[simp] theorem State.undisturbed_iah (s : State) : (s.undisturbed).iah = s.iah := rfl
@[simp] theorem State.undisturbed_iahs (s : State) : (s.undisturbed).iahs = s.iahs := rfl
@[simp] theorem State.undisturbed_run (s : State) : (s.undisturbed).run = .running := rfl
@[simp] theorem State.undisturbed_dbgo (s : State) : (s.undisturbed).dbgo = s.dbgo := rfl
@[simp] theorem State.undisturbed_lastPc (s : State) : (s.undisturbed).lastPc = s.lastPc := rfl
@[simp] theorem State.undisturbed_imem (s : State) : (s.undisturbed).imem = s.imem := rfl
@[simp] theorem State.undisturbed_dmem (s : State) : (s.undisturbed).dmem = s.dmem := rfl
@[simp] theorem State.undisturbed_iack (s : State) : (s.undisturbed).iack = s.iack := rfl
@[simp] theorem State.undisturbed_inputs (s : State) : (s.undisturbed).inputs = s.inputs := rfl
@[simp] theorem State.undisturbed_draws (s : State) : (s.undisturbed).draws = s.draws := rfl

/-! ## The register file -/

@[simp] theorem Regs.get_set (x : Regs) (r q : GReg) (v : Word) :
    (x.set r v).get q = if q = r then v else x.get q := by
  cases r <;> cases q <;> rfl

@[simp] theorem State.reg_setReg (s : State) (r q : GReg) (v : Word) :
    (s.setReg r v).reg q = if q = r then v else s.reg q := Regs.get_set s.x r q v

@[simp] theorem State.reg_setCc (s : State) (f : Flags) (q : GReg) : (s.setCc f).reg q = s.reg q := rfl

@[simp] theorem State.reg_advancePc (s : State) (q : GReg) : s.advancePc.reg q = s.reg q := rfl

@[simp] theorem State.reg_writeByte (s : State) (a : Word) (b : Byte) (q : GReg) :
    (s.writeByte a b).reg q = s.reg q := rfl

@[simp] theorem State.reg_store (s : State) (z : Size) (a v : Word) (q : GReg) :
    (s.store z a v).reg q = s.reg q := by cases z <;> rfl

/-- The general register that an address register is, if it is one (R23). -/
theorem State.reg_setAreg (s : State) (a : AReg) (v : Word) (q : GReg) :
    (s.setAreg a v).reg q = if AReg.isReg a q then v else s.reg q := by
  cases a <;> cases q <;> rfl

@[simp] theorem State.areg_setAreg (s : State) (a : AReg) (v : Word) : (s.setAreg a v).areg a = v := by
  cases a <;> rfl

theorem State.sp_setAreg (s : State) (a : AReg) (v : Word) :
    (s.setAreg a v).sp = if a = .sp then v else s.sp := by
  cases a <;> rfl

theorem State.ta_setAreg (s : State) (a : AReg) (v : Word) :
    (s.setAreg a v).ta = if a = .ta then v else s.ta := by
  cases a <;> rfl

@[simp] theorem State.slot_setSlot (s : State) (k : Slot) (v : Word) : (s.setSlot k v).slot k = v := by
  cases k <;> simp [State.slot, State.setSlot]

theorem State.slot_setSlot_ne (s : State) {k j : Slot} (h : j ≠ k) (v : Word) :
    (s.setSlot k v).slot j = s.slot j := by
  cases k <;> cases j <;> simp_all [State.slot, State.setSlot, State.reg]

/-- pc after a sequential instruction in the running state (R290). -/
theorem State.advancePc_pc_running (s : State) (h : s.run = .running) : s.advancePc.pc = s.pc + 1 := by
  simp [State.advancePc, h]

/-- pc after an injected instruction (R354). -/
theorem State.advancePc_pc_stopped (s : State) (h : s.run = .stopped) : s.advancePc.pc = s.pc := by
  simp [State.advancePc, h]

end Sys2Proof.Machine
end

