-- ==== Sys2Proof/Laws/Memory.lean ====
section
/-! SUPPORT. The laws of memory: a write keeps the canonical form, a read after a write of the same place gives the value
written, and a write leaves every other place alone; for each memory operation up to the host's accesses. -/

namespace Sys2Proof.Machine

/-! ## Lists of cells -/

theorem Memory.read_below {bound lo : Nat} {m : Memory} (h : Memory.wfFrom bound lo m = true) {a : Nat} (ha : a < lo) :
    Memory.read m a = unlistedByte := by
  cases m with
  | nil => rfl
  | cons c rest =>
    obtain ⟨k, v⟩ := c
    simp only [Memory.wfFrom, Bool.and_eq_true, decide_eq_true_eq] at h
    have h1 : ¬ a = k := by omega
    have h2 : a < k := by omega
    simp only [Memory.read, h1, h2, if_true, if_false]

theorem Memory.wfFrom_mono {bound : Nat} {m : Memory} {lo lo' : Nat} (h : Memory.wfFrom bound lo m = true)
    (hl : lo' ≤ lo) : Memory.wfFrom bound lo' m = true := by
  cases m with
  | nil => rfl
  | cons c rest =>
    obtain ⟨k, v⟩ := c
    simp only [Memory.wfFrom, Bool.and_eq_true, decide_eq_true_eq] at h ⊢
    exact ⟨⟨⟨by omega, h.1.1.2⟩, h.1.2⟩, h.2⟩

theorem Memory.wfFrom_cons {bound lo a : Nat} {v : Byte} {rest : Memory}
    (h : Memory.wfFrom bound (a + 1) rest = true) (hl : lo ≤ a) (ha : a < bound) :
    Memory.wfFrom bound lo (Memory.cons a v rest) = true := by
  unfold Memory.cons
  split
  · exact Memory.wfFrom_mono h (by omega)
  · simp only [Memory.wfFrom, Bool.and_eq_true, decide_eq_true_eq]
    exact ⟨⟨⟨hl, ha⟩, by simpa using ‹¬ v = unlistedByte›⟩, h⟩

/-- A write below the bound keeps the canonical form. -/
theorem Memory.wfFrom_write {bound : Nat} {m : Memory} {lo a : Nat} (b : Byte)
    (h : Memory.wfFrom bound lo m = true) (hl : lo ≤ a) (ha : a < bound) :
    Memory.wfFrom bound lo (Memory.write m a b) = true := by
  induction m generalizing lo with
  | nil => exact Memory.wfFrom_cons rfl hl ha
  | cons c rest ih =>
    obtain ⟨k, v⟩ := c
    have hh := h
    simp only [Memory.wfFrom, Bool.and_eq_true, decide_eq_true_eq] at h
    obtain ⟨⟨⟨h1, h2⟩, h3⟩, h4⟩ := h
    unfold Memory.write
    split
    · subst_vars; exact Memory.wfFrom_cons h4 hl ha
    · split
      · refine Memory.wfFrom_cons ?_ hl ha
        simp only [Memory.wfFrom, Bool.and_eq_true, decide_eq_true_eq]
        exact ⟨⟨⟨by omega, h2⟩, h3⟩, h4⟩
      · simp only [Memory.wfFrom, Bool.and_eq_true, decide_eq_true_eq]
        exact ⟨⟨⟨h1, h2⟩, h3⟩, ih h4 (by omega)⟩

theorem Memory.read_cons {bound a : Nat} {v : Byte} {rest : Memory}
    (h : Memory.wfFrom bound (a + 1) rest = true) (a' : Nat) :
    Memory.read (Memory.cons a v rest) a' = if a' = a then v else Memory.read rest a' := by
  unfold Memory.cons
  split
  · split
    · subst_vars; exact Memory.read_below h (by omega)
    · rfl
  · simp only [Memory.read]
    split
    · rfl
    · split
      · rw [Memory.read_below h (by omega)]
      · rfl

/-- What a read gives after a write. -/
theorem Memory.read_write {bound : Nat} {m : Memory} {lo : Nat} (h : Memory.wfFrom bound lo m = true) (a : Nat) (b : Byte)
    (a' : Nat) : Memory.read (Memory.write m a b) a' = if a' = a then b else Memory.read m a' := by
  induction m generalizing lo with
  | nil => exact Memory.read_cons (bound := bound) rfl a'
  | cons c rest ih =>
    obtain ⟨k, v⟩ := c
    have hh := h
    simp only [Memory.wfFrom, Bool.and_eq_true, decide_eq_true_eq] at h
    obtain ⟨⟨⟨h1, h2⟩, h3⟩, h4⟩ := h
    unfold Memory.write
    split
    · subst_vars
      rw [Memory.read_cons h4]
      split
      · rfl
      · simp only [Memory.read]
        rw [if_neg (by assumption)]
        split
        · rw [Memory.read_below h4 (by omega)]
        · rfl
    · split
      · have : Memory.wfFrom bound (a + 1) ((k, v) :: rest) = true := by
          simp only [Memory.wfFrom, Bool.and_eq_true, decide_eq_true_eq]
          exact ⟨⟨⟨by omega, h2⟩, h3⟩, h4⟩
        rw [Memory.read_cons this]
      · simp only [Memory.read]
        rw [ih h4]
        by_cases h5 : a' = k
        · rw [if_pos h5, if_pos h5, if_neg (by omega)]
        · by_cases h6 : a' < k
          · rw [if_neg h5, if_neg h5, if_pos h6, if_pos h6, if_neg (by omega)]
          · rw [if_neg h5, if_neg h5, if_neg h6, if_neg h6]

/-! ## The two memories of a state -/

theorem State.memWf_iff (s : State) :
    s.memWf = true ↔ Memory.wfFrom imageBytes 0 s.imem = true ∧ Memory.wfFrom dataBytes 0 s.dmem = true := by
  simp [State.memWf, Memory.wf]

/-- The canonical form depends on the two memories alone. -/
theorem State.memWf_congr {s t : State} (hi : t.imem = s.imem) (hd : t.dmem = s.dmem) : t.memWf = s.memWf := by
  simp only [State.memWf, hi, hd]

/-- What a data byte reads as depends on the window and the two memories alone. -/
theorem State.readByte_congr {s t : State} (hc : t.cfg = s.cfg) (hi : t.imem = s.imem) (hd : t.dmem = s.dmem) (a : Word) :
    t.readByte a = s.readByte a := by
  simp only [State.readByte, State.aliased, hc, hi, hd]

/-- What an opcode word reads as depends on the instruction memory alone. -/
theorem State.readCode_congr {s t : State} (hi : t.imem = s.imem) (w : Word) : t.readCode w = s.readCode w := by
  simp only [State.readCode, hi]

/-- A state with the same parameters and memories has the same memory. -/
theorem SameMemory.of_eq {s t : State} (hc : t.cfg = s.cfg) (hi : t.imem = s.imem) (hd : t.dmem = s.dmem) :
    SameMemory s t := ⟨State.readByte_congr hc hi hd, State.readCode_congr hi⟩

/-! ## The mapping of the instruction memory -/

theorem windowByte_lt {w : ImemWindow} {a : Word} {k : Nat} (h : windowByte w a = some k) : k < imageBytes := by
  unfold windowByte at h
  split at h
  · have hm := Nat.mod_lt (w.imageBase.toNat + (a - w.dataBase).toNat) (show 0 < imageBytes by decide)
    cases h
    unfold imageBytes at hm ⊢
    cases w.order
    · exact hm
    · simp only [imagePlace]; split <;> omega
  · cases h

theorem aliasedIn_lt {l : List ImemWindow} {a : Word} {k : Nat} (h : aliasedIn l a = some k) : k < imageBytes := by
  induction l with
  | nil => cases h
  | cons w rest ih =>
    unfold aliasedIn at h
    cases hw : windowByte w a with
    | none => rw [hw] at h; exact ih h
    | some k' => rw [hw] at h; cases h; exact windowByte_lt hw

/-- A mapped address aliases a byte of the image. -/
theorem State.aliased_lt {s : State} {a : Word} {k : Nat} (h : s.aliased a = some k) : k < imageBytes := aliasedIn_lt h

/-- The window of one data address onto one image byte. -/
def oneByteWindow (a : Word) (k : Fin 131072) : ImemWindow := ⟨a, 1, k.val, .lowFirst⟩

theorem windowByte_oneByteWindow (a b : Word) (k : Fin 131072) :
    windowByte (oneByteWindow a k) b = if b = a then some k.val else none := by
  unfold windowByte oneByteWindow
  simp only [imagePlace]
  by_cases h : b = a
  · subst h
    simp [imageBytes, Nat.mod_eq_of_lt k.isLt]
  · have : ¬ (b - a).toNat < 1 := by
      intro hl
      exact h (by bv_omega)
    rw [if_neg this, if_neg h]

theorem aliasedIn_oneByteWindows (f : Word → Option (Fin 131072)) (l : List Word) (b : Word) :
    aliasedIn (l.filterMap fun a => (f a).map (oneByteWindow a)) b =
      if b ∈ l then (f b).map Fin.val else none := by
  induction l with
  | nil => rfl
  | cons a rest ih =>
    cases hf : f a with
    | none =>
      rw [List.filterMap_cons_none (by simp [hf]), ih]
      by_cases h : b = a
      · subst h; simp [hf]
      · simp [h]
    | some k =>
      rw [List.filterMap_cons_some (b := oneByteWindow a k) (by simp [hf]), aliasedIn, windowByte_oneByteWindow, ih]
      by_cases h : b = a
      · subst h; simp [hf]
      · simp [h]

/-- Every mapping function from data addresses to bytes of the instruction memory image is a list of windows: the
parameter `IMEM_IN_DATA_SPACE` ranges over "false, or a mapping function" (R7). -/
theorem aliasedIn_complete (f : Word → Option (Fin 131072)) :
    ∃ l, ∀ a, aliasedIn l a = (f a).map Fin.val := by
  refine ⟨_, fun a => (aliasedIn_oneByteWindows f ((List.range 65536).map (BitVec.ofNat 16)) a).trans (if_pos ?_)⟩
  exact List.mem_map.2 ⟨a.toNat, List.mem_range.2 a.isLt, by simp⟩

/-! ## Data addresses that name one byte -/

theorem State.sameByte_refl (s : State) (a : Word) : s.sameByte a a := .inl rfl

theorem State.sameByte_symm {s : State} {a b : Word} (h : s.sameByte a b) : s.sameByte b a := by
  rcases h with rfl | ⟨h, e⟩
  · exact .inl rfl
  · exact .inr ⟨e ▸ h, e.symm⟩

/-- Which addresses name one byte depends on the parameters alone. -/
theorem State.sameByte_congr {s t : State} (hc : t.cfg = s.cfg) (a b : Word) : t.sameByte a b ↔ s.sameByte a b := by
  simp only [State.sameByte, State.aliased, hc]

/-- Without a mapping each address has its own byte. -/
theorem State.sameByte_iff_eq {s : State} (h : s.cfg.imemWindows = []) {a b : Word} : s.sameByte a b ↔ a = b := by
  simp [State.sameByte, State.aliased, h, aliasedIn]

/-- Without a mapping different addresses are separate. -/
theorem State.separate_of_nodup {s : State} (h : s.cfg.imemWindows = []) {l : List Word} (hl : l.Nodup) :
    s.separate l := by
  simp only [State.separate, State.sameByte_iff_eq h]
  exact hl

/-- Addresses that name one byte read the same. -/
theorem State.readByte_of_sameByte {s : State} {a b : Word} (h : s.sameByte a b) : s.readByte a = s.readByte b := by
  rcases h with rfl | ⟨h, e⟩
  · rfl
  · obtain ⟨k, hk⟩ := Option.isSome_iff_exists.1 h
    simp only [State.readByte, hk, ← e]

theorem append_low (x y : Byte) : (x ++ y).extractLsb' 0 8 = y := by
  apply BitVec.eq_of_getLsbD_eq
  intro i hi
  simp only [BitVec.getLsbD_extractLsb', BitVec.getLsbD_append]
  simp [hi]

theorem append_high (x y : Byte) : (x ++ y).extractLsb' 8 8 = x := by
  apply BitVec.eq_of_getLsbD_eq
  intro i hi
  simp only [BitVec.getLsbD_extractLsb', BitVec.getLsbD_append]
  simp [hi]

/-- A data address mapped to the low byte of an opcode word reads that byte (R71, R88). -/
theorem State.readByte_low {s : State} {a w : Word} (h : s.aliased a = some (2 * w.toNat)) :
    s.readByte a = (s.readCode w).extractLsb' 0 8 := by
  simp only [State.readByte, h, State.readCode, append_low]

/-- A data address mapped to the high byte of an opcode word reads that byte (R71, R88). -/
theorem State.readByte_high {s : State} {a w : Word} (h : s.aliased a = some (2 * w.toNat + 1)) :
    s.readByte a = (s.readCode w).extractLsb' 8 8 := by
  simp only [State.readByte, h, State.readCode, append_high]

/-! ## Byte stores -/

/-- A byte store keeps the canonical form. -/
theorem State.memWf_writeByte {s : State} (h : s.memWf = true) (a : Word) (b : Byte) : (s.writeByte a b).memWf = true := by
  rw [State.memWf_iff] at h ⊢
  unfold State.writeByte
  cases ha : s.aliased a with
  | none => exact ⟨h.1, Memory.wfFrom_write b h.2 (by omega) a.isLt⟩
  | some k => exact ⟨Memory.wfFrom_write b h.1 (by omega) (State.aliased_lt ha), h.2⟩

/-- The byte just written reads as written, through every address that names it. -/
theorem State.readByte_writeByte_same {s : State} (h : s.memWf = true) {a a' : Word} (b : Byte) (hs : s.sameByte a' a) :
    (s.writeByte a b).readByte a' = b := by
  rw [State.memWf_iff] at h
  rw [State.readByte_of_sameByte (s := s.writeByte a b) (b := a) hs]
  have hal : (s.writeByte a b).aliased a = s.aliased a := rfl
  unfold State.readByte
  rw [hal]
  cases ha : s.aliased a with
  | none => simp only [State.writeByte, ha]; rw [Memory.read_write h.2, if_pos rfl]
  | some k => simp only [State.writeByte, ha]; rw [Memory.read_write h.1, if_pos rfl]

/-- A byte store leaves every other byte alone. -/
theorem State.readByte_writeByte_other {s : State} (h : s.memWf = true) {a a' : Word} (b : Byte)
    (hs : ¬ s.sameByte a' a) : (s.writeByte a b).readByte a' = s.readByte a' := by
  rw [State.memWf_iff] at h
  simp only [State.sameByte, not_or, not_and] at hs
  have hal : (s.writeByte a b).aliased a' = s.aliased a' := rfl
  unfold State.readByte
  rw [hal]
  cases ha' : s.aliased a' with
  | none =>
    cases ha : s.aliased a with
    | none =>
      simp only [State.writeByte, ha]
      rw [Memory.read_write h.2, if_neg fun e => hs.1 (BitVec.eq_of_toNat_eq e)]
    | some k => simp only [State.writeByte, ha]
  | some k' =>
    cases ha : s.aliased a with
    | none => simp only [State.writeByte, ha]
    | some k =>
      have hk : k' ≠ k := fun e => hs.2 (by rw [ha']; rfl) (by rw [ha, ha', e])
      simp only [State.writeByte, ha]
      rw [Memory.read_write h.1, if_neg hk]

/-- What a data byte reads as after a byte store. -/
theorem State.readByte_writeByte {s : State} (h : s.memWf = true) (a : Word) (b : Byte) (a' : Word) :
    (s.writeByte a b).readByte a' = if s.sameByte a' a then b else s.readByte a' := by
  split
  · exact State.readByte_writeByte_same h b ‹_›
  · exact State.readByte_writeByte_other h b ‹_›

/-- An opcode word no byte of which a byte store reaches reads as before. -/
theorem State.readCode_writeByte {s : State} (h : s.memWf = true) (a : Word) (b : Byte) (w : Word)
    (hw : ¬ s.inWord a w) : (s.writeByte a b).readCode w = s.readCode w := by
  rw [State.memWf_iff] at h
  unfold State.readCode State.writeByte
  cases ha : s.aliased a with
  | none => rfl
  | some k =>
    simp only [State.inWord, ha, Option.some.injEq, not_or] at hw
    simp only [Memory.read_write h.1]
    rw [if_neg (by omega), if_neg (by omega)]

/-- A byte store reaches one byte. -/
theorem StoresOnly.writeByte {s : State} (h : s.memWf = true) (a : Word) (b : Byte) :
    StoresOnly [a] s (s.writeByte a b) where
  byte a' ha' := by rw [State.readByte_writeByte h, if_neg (ha' a (by simp))]
  code w hw := State.readCode_writeByte h a b w (hw a (by simp))

/-- Stores one after another reach the bytes that either reaches. -/
theorem StoresOnly.trans {s t u : State} {l l' : List Word} (h : StoresOnly l s t) (h' : StoresOnly l' t u)
    (hc : t.cfg = s.cfg) : StoresOnly (l ++ l') s u where
  byte a ha := by
    rw [h'.byte a fun b hb => ?_, h.byte a fun b hb => ha b (List.mem_append_left _ hb)]
    rw [State.sameByte_congr hc]
    exact ha b (List.mem_append_right _ hb)
  code w hw := by
    rw [h'.code w fun a hm => ?_, h.code w fun a hm => hw a (List.mem_append_left _ hm)]
    have := hw a (List.mem_append_right _ hm)
    simpa only [State.inWord, State.aliased, hc] using this

/-- A store that reaches some bytes reaches no byte outside a longer list. -/
theorem StoresOnly.mono {s t : State} {l l' : List Word} (h : StoresOnly l s t) (hl : ∀ a ∈ l, a ∈ l') :
    StoresOnly l' s t where
  byte a ha := h.byte a fun b hb => ha b (hl b hb)
  code w hw := h.code w fun a hm => hw a (hl a hm)

/-! ## Shorts, stores of either size, register selections -/

theorem State.memWf_writeShort {s : State} (h : s.memWf = true) (a v : Word) : (s.writeShort a v).memWf = true :=
  State.memWf_writeByte (State.memWf_writeByte h _ _) _ _

/-- A store of either size keeps the canonical form. -/
theorem State.memWf_store {s : State} (h : s.memWf = true) (z : Size) (a v : Word) : (s.store z a v).memWf = true := by
  cases z
  · exact State.memWf_writeByte h _ _
  · exact State.memWf_writeShort h _ _

/-- A store reaches the bytes its access transfers. -/
theorem StoresOnly.store {s : State} (h : s.memWf = true) (z : Size) (a v : Word) :
    StoresOnly (s.touched z a) s (s.store z a v) := by
  cases z
  · exact StoresOnly.writeByte h _ _
  · have h1 := StoresOnly.writeByte h (s.shortBase a) (v.extractLsb' 0 8)
    have h2 := StoresOnly.writeByte (State.memWf_writeByte h (s.shortBase a) (v.extractLsb' 0 8))
      (s.shortBase a + 1) (v.extractLsb' 8 8)
    exact h1.trans h2 rfl

/-- Two bytes as a word. -/
theorem bytes_append (v : Word) : v.extractLsb' 8 8 ++ v.extractLsb' 0 8 = v := by
  apply BitVec.eq_of_getLsbD_eq
  intro i hi
  simp only [BitVec.getLsbD_append, BitVec.getLsbD_extractLsb']
  by_cases h8 : i < 8
  · simp [h8]
  · have h9 : i - 8 < 8 := by omega
    have h10 : 8 + (i - 8) = i := by omega
    simp [h8, h9, h10]

/-- What a data byte reads as after a short store: the high byte is written last (R80, R81). -/
theorem State.readByte_writeShort {s : State} (h : s.memWf = true) (a v a' : Word) :
    (s.writeShort a v).readByte a' =
      if s.sameByte a' (s.shortBase a + 1) then v.extractLsb' 8 8
      else if s.sameByte a' (s.shortBase a) then v.extractLsb' 0 8
      else s.readByte a' := by
  unfold State.writeShort
  rw [State.readByte_writeByte (State.memWf_writeByte h _ _), State.readByte_writeByte h]
  rfl

/-- A short read after a short write of the same address gives the value written, if the two bytes are not one byte of
the instruction memory (R80, R81, R88). -/
theorem State.readShort_writeShort {s : State} (h : s.memWf = true) {a : Word} (v : Word)
    (hs : s.separate (s.touched .short a)) : (s.writeShort a v).readShort a = v := by
  have hn : ¬ s.sameByte (s.shortBase a) (s.shortBase a + 1) := by
    simpa [State.separate, State.touched] using hs
  have hb : (s.writeShort a v).shortBase a = s.shortBase a := rfl
  unfold State.readShort
  rw [hb, State.readByte_writeShort h, State.readByte_writeShort h, if_pos (s.sameByte_refl _), if_neg hn,
    if_pos (s.sameByte_refl _)]
  exact bytes_append v

/-- A load after a store of the same size and address gives what the store keeps of the value (R75, R80, R81). -/
theorem State.load_store {s : State} (h : s.memWf = true) (z : Size) {a : Word} (v : Word)
    (hs : s.separate (s.touched z a)) : (s.store z a v).load z a = z.kept v := by
  cases z
  · show ((s.writeByte a _).readByte a).toWord = _
    rw [State.readByte_writeByte_same h _ (s.sameByte_refl a)]
    apply BitVec.eq_of_getLsbD_eq
    intro i hi
    by_cases h8 : i < 8 <;>
      simp only [Byte.toWord, Size.kept, BitVec.getLsbD_setWidth, BitVec.getLsbD_append, h8, hi, decide_true,
        Bool.true_and, if_true, if_false, BitVec.getLsbD_extractLsb', BitVec.getLsbD_zero]
    simp
  · exact State.readShort_writeShort h v hs

/-- Without a mapping the bytes of one access are separate. -/
theorem State.separate_touched {s : State} (h : s.cfg.imemWindows = []) (z : Size) (a : Word) :
    s.separate (s.touched z a) := by
  apply State.separate_of_nodup h
  cases z <;> simp [State.touched]

/-- Stores of a list of slots keep the canonical form. -/
theorem State.memWf_storeSlots {z : Size} {l : List Slot} {a : Word} {s : State} (h : s.memWf = true) :
    (State.storeSlots z l a s).memWf = true := by
  induction l generalizing a s with
  | nil => exact h
  | cons k rest ih => exact ih (State.memWf_store h _ _ _)

/-- Loads write no memory. -/
theorem State.loadSlots_memory {z : Size} {l : List Slot} {a : Word} {s : State} :
    (State.loadSlots z l a s).imem = s.imem ∧ (State.loadSlots z l a s).dmem = s.dmem
      ∧ (State.loadSlots z l a s).cfg = s.cfg := by
  induction l generalizing a s with
  | nil => exact ⟨rfl, rfl, rfl⟩
  | cons k rest ih =>
    have := @ih (a + z.bytes) (s.setSlot k (s.load z a))
    cases k <;> exact this

theorem State.memWf_writeCode {s : State} (h : s.memWf = true) (a op : Word) : (s.writeCode a op).memWf = true := by
  rw [State.memWf_iff] at h ⊢
  have ha := a.isLt
  refine ⟨Memory.wfFrom_write _ (Memory.wfFrom_write _ h.1 (by omega) ?_) (by omega) ?_, h.2⟩ <;>
    (unfold imageBytes; omega)

/-- What an opcode word reads as after the host writes one (R71). -/
theorem State.readCode_writeCode {s : State} (h : s.memWf = true) (a op w : Word) :
    (s.writeCode a op).readCode w = if w = a then op else s.readCode w := by
  rw [State.memWf_iff] at h
  have ha := a.isLt
  have h1 : Memory.wfFrom imageBytes 0 (s.imem.write (2 * a.toNat) (op.extractLsb' 0 8)) = true :=
    Memory.wfFrom_write _ h.1 (by omega) (by unfold imageBytes; omega)
  unfold State.readCode State.writeCode
  simp only [Memory.read_write h1, Memory.read_write h.1]
  by_cases hw : w = a
  · subst hw
    rw [if_pos rfl, if_neg (by omega), if_pos rfl, if_pos rfl]
    exact bytes_append op
  · have hn : w.toNat ≠ a.toNat := fun e => hw (BitVec.eq_of_toNat_eq e)
    rw [if_neg (by omega), if_neg (by omega), if_neg (by omega), if_neg (by omega), if_neg hw]

/-- A data byte that is no byte of the opcode word that the host writes reads as before (R71, R88). -/
theorem State.readByte_writeCode {s : State} (h : s.memWf = true) {a op b : Word} (hb : ¬ s.inWord b a) :
    (s.writeCode a op).readByte b = s.readByte b := by
  rw [State.memWf_iff] at h
  have ha := a.isLt
  have h1 : Memory.wfFrom imageBytes 0 (s.imem.write (2 * a.toNat) (op.extractLsb' 0 8)) = true :=
    Memory.wfFrom_write _ h.1 (by omega) (by unfold imageBytes; omega)
  have hal : (s.writeCode a op).aliased b = s.aliased b := rfl
  unfold State.readByte
  rw [hal]
  cases hk : s.aliased b with
  | none => rfl
  | some k =>
    simp only [State.inWord, hk, Option.some.injEq, not_or] at hb
    simp only [State.writeCode, Memory.read_write h1, Memory.read_write h.1]
    rw [if_neg hb.2, if_neg hb.1]

theorem State.memWf_writeBytes {l : List (Word × Byte)} {s : State} (h : s.memWf = true) :
    (State.writeBytes l s).memWf = true := by
  induction l generalizing s with
  | nil => exact h
  | cons c rest ih => exact ih (State.memWf_writeByte h _ _)

theorem State.memWf_writeCodes {l : List (Word × Word)} {s : State} (h : s.memWf = true) :
    (State.writeCodes l s).memWf = true := by
  induction l generalizing s with
  | nil => exact h
  | cons c rest ih => exact ih (State.memWf_writeCode h _ _)

/-- The host's data writes reach the bytes they list. -/
theorem StoresOnly.writeBytes (l : List (Word × Byte)) {s : State} (h : s.memWf = true) :
    StoresOnly (l.map Prod.fst) s (State.writeBytes l s) := by
  induction l generalizing s with
  | nil => exact ⟨fun _ _ => rfl, fun _ _ => rfl⟩
  | cons c rest ih => exact (StoresOnly.writeByte h c.1 c.2).trans (ih (State.memWf_writeByte h c.1 c.2)) rfl

/-- The host's opcode writes leave every word that they do not list alone. -/
theorem State.readCode_writeCodes_other {l : List (Word × Word)} {s : State} (h : s.memWf = true) {a : Word}
    (ha : ∀ c ∈ l, c.1 ≠ a) : (State.writeCodes l s).readCode a = s.readCode a := by
  induction l generalizing s with
  | nil => rfl
  | cons c rest ih =>
    refine (ih (State.memWf_writeCode h c.1 c.2) fun d hd => ha d (List.mem_cons_of_mem _ hd)).trans ?_
    rw [State.readCode_writeCode h, if_neg fun e => ha c (by simp) e.symm]

/-- The host's opcode writes leave every data byte that is no byte of a listed word alone. -/
theorem State.readByte_writeCodes_other {l : List (Word × Word)} {s : State} (h : s.memWf = true) {a : Word}
    (ha : ∀ c ∈ l, ¬ s.inWord a c.1) : (State.writeCodes l s).readByte a = s.readByte a := by
  induction l generalizing s with
  | nil => rfl
  | cons c rest ih =>
    exact (ih (State.memWf_writeCode h c.1 c.2) fun d hd => ha d (List.mem_cons_of_mem _ hd)).trans
      (State.readByte_writeCode h (ha c (by simp)))

/-- The host's accesses keep the canonical form. -/
theorem State.memWf_hostWrites {s : State} (h : s.memWf = true) : s.hostWrites.memWf = true := by
  unfold State.hostWrites
  split
  · exact State.memWf_writeBytes h
  · exact State.memWf_writeCodes (State.memWf_writeBytes h)

end Sys2Proof.Machine
end

