-- ==== Sys2Proof/Laws/Ops.lean ====
section
/-! SUPPORT. One lemma for each shared operation that says everything it can do: what it answers, and when. Cite these
in place of unfolding the operation. -/

namespace Sys2Proof.Machine

/-! ## The end of an instruction -/

theorem done_next_iff {s t : State} : done s = .next t ↔ t = s.advancePc := by
  simp only [done, Host.Outcome.next.injEq, eq_comm]

theorem done_not_refused {s : State} {r : Refusal} : done s ≠ .refused r := by simp [done]

theorem refused_eq_iff {q r : Refusal} :
    (Host.Outcome.refused q : Host.Outcome State Fault Refusal) = .refused r ↔ r = q := by
  simp only [Host.Outcome.refused.injEq, eq_comm]

theorem advancePc_pc (s : State) : s.advancePc.pc = nextPc s := rfl

/-- A control transfer answers its next state when running. -/
theorem transfer_next_iff {s u t : State} : transfer s u = .next t ↔ s.run = .running ∧ t = u := by
  unfold transfer
  cases s.run <;> simp [eq_comm]

/-- A control transfer is refused when injected. -/
theorem transfer_refused_iff {s u : State} {r : Refusal} :
    transfer s u = .refused r ↔ s.run = .stopped ∧ r = .injectedControlTransfer := by
  unfold transfer
  cases s.run <;> simp [eq_comm]

theorem mapNext_next_iff {f : State → State} {o : Host.Outcome State Fault Refusal} {t : State} :
    mapNext f o = .next t ↔ ∃ u, o = .next u ∧ t = f u := by
  cases o <;> simp [mapNext, eq_comm]

theorem mapNext_refused_iff {f : State → State} {o : Host.Outcome State Fault Refusal} {r : Refusal} :
    mapNext f o = .refused r ↔ o = .refused r := by
  cases o <;> simp [mapNext]

/-! ## Loads and stores of one register -/

theorem loadReg_next_iff {z : Size} {m : Mode} {rd : GReg} {s t : State} :
    loadReg z m rd s = .next t ↔
      m.updatesReg rd = false ∧ t = (m.applyUpdate z s (s.setReg rd (s.load z (m.eda z s)))).advancePc := by
  unfold loadReg
  cases h : m.updatesReg rd <;> simp [done_next_iff]

theorem loadReg_refused_iff {z : Size} {m : Mode} {rd : GReg} {s : State} {r : Refusal} :
    loadReg z m rd s = .refused r ↔ m.updatesReg rd = true ∧ r = .loadIntoAddressRegister := by
  unfold loadReg
  cases h : m.updatesReg rd <;> simp only [if_true, if_false, Bool.false_eq_true, refused_eq_iff] <;>
    simp [done_not_refused]

theorem storeReg_next_iff {z : Size} {m : Mode} {rs : GReg} {s t : State} :
    storeReg z m rs s = .next t ↔ t = (m.applyUpdate z s (s.store z (m.eda z s) (s.reg rs))).advancePc := done_next_iff

/-! ## Loads and stores of a register selection -/

theorem loadRgs_next_iff {z : Size} {an : AReg} {sel : BitVec 7} {s t : State} :
    loadRgs z an sel s = .next t ↔
      sel ≠ 0 ∧ (selected z sel).any (AReg.isSlot an) = false ∧
        t = ((State.loadSlots z (selected z sel) (s.areg an) s).setAreg an
          (s.areg an + spanOf z (selected z sel).length)).advancePc := by
  unfold loadRgs
  by_cases h : sel = 0
  · rw [if_pos h]; exact ⟨fun e => (nomatch e), fun e => absurd h e.1⟩
  · rw [if_neg h]
    cases h2 : (selected z sel).any (AReg.isSlot an)
    · exact done_next_iff.trans ⟨fun e => ⟨h, rfl, e⟩, fun e => e.2.2⟩
    · exact ⟨fun e => (nomatch e), fun e => (nomatch e.2.1)⟩

theorem loadRgs_refused_iff {z : Size} {an : AReg} {sel : BitVec 7} {s : State} {r : Refusal} :
    loadRgs z an sel s = .refused r ↔
      (sel = 0 ∧ r = .emptyRgs) ∨
        (sel ≠ 0 ∧ (selected z sel).any (AReg.isSlot an) = true ∧ r = .loadIntoAddressRegister) := by
  unfold loadRgs
  by_cases h : sel = 0
  · rw [if_pos h, refused_eq_iff]
    exact ⟨fun e => .inl ⟨h, e⟩, fun e => e.elim (·.2) fun e => absurd h e.1⟩
  · rw [if_neg h]
    cases h2 : (selected z sel).any (AReg.isSlot an)
    · exact ⟨fun e => absurd e done_not_refused, fun e => e.elim (fun e => absurd e.1 h) fun e => (nomatch e.2.1)⟩
    · exact refused_eq_iff.trans ⟨fun e => .inr ⟨h, rfl, e⟩, fun e => e.elim (fun e => absurd e.1 h) (·.2.2)⟩

theorem storeRgs_next_iff {z : Size} {an : AReg} {sel : BitVec 7} {s t : State} :
    storeRgs z sel an s = .next t ↔
      sel ≠ 0 ∧
        t = ((State.storeSlots z (selected z sel).reverse (s.areg an) s).setAreg an
          (s.areg an - spanOf z (selected z sel).length)).advancePc := by
  unfold storeRgs
  by_cases h : sel = 0
  · rw [if_pos h]; exact ⟨fun e => (nomatch e), fun e => absurd h e.1⟩
  · rw [if_neg h, done_next_iff]; exact ⟨fun e => ⟨h, e⟩, (·.2)⟩

theorem storeRgs_refused_iff {z : Size} {an : AReg} {sel : BitVec 7} {s : State} {r : Refusal} :
    storeRgs z sel an s = .refused r ↔ sel = 0 ∧ r = .emptyRgs := by
  unfold storeRgs
  by_cases h : sel = 0
  · rw [if_pos h, refused_eq_iff]; exact ⟨fun e => ⟨h, e⟩, (·.2)⟩
  · rw [if_neg h]; exact ⟨fun e => absurd e done_not_refused, fun e => absurd e.1 h⟩

/-- A selection of at least one flag selects at least one slot, and no slot twice. -/
theorem selected_facts (z : Size) (sel : BitVec 7) :
    (selected z sel).Nodup ∧ (selected z sel).length ≤ 7 ∧ (sel ≠ 0 → selected z sel ≠ []) := by
  revert sel; cases z <;> decide

/-- The slots of a list that a load does not name keep their value. -/
theorem State.slot_loadSlots_other {z : Size} {l : List Slot} {a : Word} {s : State} {j : Slot} (hj : j ∉ l) :
    (State.loadSlots z l a s).slot j = s.slot j := by
  induction l generalizing a s with
  | nil => rfl
  | cons k rest ih =>
    simp only [List.mem_cons, not_or] at hj
    simp only [State.loadSlots]
    rw [ih hj.2, State.slot_setSlot_ne _ hj.1]

/-- What a load of a slot list reads does not depend on the slots already loaded. -/
theorem State.load_setSlot (s : State) (k : Slot) (v : Word) (z : Size) (a : Word) :
    (s.setSlot k v).load z a = s.load z a := by
  have hb : ∀ b, (s.setSlot k v).readByte b = s.readByte b := fun b =>
    State.readByte_congr (by cases k <;> rfl) (by cases k <;> rfl) (by cases k <;> rfl) b
  have hs : (s.setSlot k v).shortBase a = s.shortBase a := by cases k <;> rfl
  cases z <;> simp [State.load, State.readShort, hb, hs]

theorem wordOfSucc (n : Nat) : BitVec.ofNat 16 (n + 1) = BitVec.ofNat 16 n + 1 := by
  apply BitVec.eq_of_toNat_eq
  simp

/-- Element i of the list is loaded from `a + size * i` (R95, R173). -/
theorem State.slot_loadSlots {z : Size} {l : List Slot} {a : Word} {s : State} (hn : l.Nodup) (i : Nat)
    (hi : i < l.length) :
    (State.loadSlots z l a s).slot l[i] = s.load z (a + spanOf z i) := by
  induction l generalizing a s i with
  | nil => simp at hi
  | cons k rest ih =>
    simp only [List.nodup_cons] at hn
    simp only [State.loadSlots]
    cases i with
    | zero =>
      simp only [List.getElem_cons_zero]
      rw [State.slot_loadSlots_other hn.1, State.slot_setSlot]
      simp [spanOf]
    | succ i =>
      simp only [List.getElem_cons_succ]
      rw [ih hn.2 i (by simpa using hi), State.load_setSlot]
      congr 1
      simp only [spanOf, wordOfSucc]
      cases z <;> simp only [Size.bytes] <;> bv_omega

/-! ## Arithmetic and logic -/

theorem addInto_next_iff {s1 s0 : Word} {rd : GReg} {s t : State} :
    addInto s1 s0 rd s = .next t ↔
      t = ((s.setReg rd (s1 + s0 + bitWord false)).setCc (addFlags s1 s0 (s1 + s0 + bitWord false))).advancePc :=
  done_next_iff

theorem addCarryInto_next_iff {s1 s0 : Word} {rd : GReg} {s t : State} :
    addCarryInto s1 s0 rd s = .next t ↔
      t = ((s.setReg rd (addResult s1 s0 s.cc.c)).setCc
        ((addFlags s1 s0 (addResult s1 s0 s.cc.c)).sticky s.cc.z)).advancePc := done_next_iff

theorem subInto_next_iff {s1 s0 : Word} {rd : GReg} {s t : State} :
    subInto s1 s0 rd s = .next t ↔
      t = ((s.setReg rd (subResult s1 s0 false)).setCc (subFlags s1 s0 (subResult s1 s0 false))).advancePc := done_next_iff

theorem subCarryInto_next_iff {s1 s0 : Word} {rd : GReg} {s t : State} :
    subCarryInto s1 s0 rd s = .next t ↔
      t = ((s.setReg rd (subResult s1 s0 s.cc.c)).setCc
        ((subFlags s1 s0 (subResult s1 s0 s.cc.c)).sticky s.cc.z)).advancePc := done_next_iff

theorem compareFlags_next_iff {s1 s0 : Word} {s t : State} :
    compareFlags s1 s0 s = .next t ↔ t = (s.setCc (subFlags s1 s0 (subResult s1 s0 false))).advancePc := done_next_iff

theorem compareCarryFlags_next_iff {s1 s0 : Word} {s t : State} :
    compareCarryFlags s1 s0 s = .next t ↔
      t = (s.setCc ((subFlags s1 s0 (subResult s1 s0 s.cc.c)).sticky s.cc.z)).advancePc := done_next_iff

theorem andInto_next_iff {s1 s0 : Word} {rd : GReg} {s t : State} :
    andInto s1 s0 rd s = .next t ↔
      t = ((s.setReg rd (s1 &&& s0)).setCc (andFlags (s1 &&& s0) s.cc.c)).advancePc := done_next_iff

theorem branchIf_next_iff {taken : Bool} {io8 : BitVec 8} {s t : State} :
    branchIf taken io8 s = .next t ↔
      s.run = .running ∧ t = { s with pc := if taken then s.pc + io8s io8 else s.pc + 1 } := transfer_next_iff

theorem branchIf_refused_iff {taken : Bool} {io8 : BitVec 8} {s : State} {r : Refusal} :
    branchIf taken io8 s = .refused r ↔ s.run = .stopped ∧ r = .injectedControlTransfer := transfer_refused_iff

theorem parityBelow_succ (w : Word) (n : Nat) : parityBelow w (n + 1) = xor (w.getLsbD n) (parityBelow w n) := rfl

/-! ## The boundary -/

theorem runWord_next_iff {op : Word} {s t : State} :
    runWord op s = .next t ↔ ∃ i, decode s.cfg.enc op = .ok i ∧ exec i s = .next t := by
  unfold runWord
  cases decode s.cfg.enc op <;> simp

/-- Everything a step can do when it answers a next state (R334 to R341, R351 to R356, R370). -/
theorem step_next_cases {s t : State} (h : step s = .next t) :
    (s.hostWrites.pins.reset = true ∧ t = s.hostWrites.takeReset.nextBoundary false) ∨
    (s.hostWrites.pins.reset = false ∧ s.hostWrites.run = .running ∧ s.hostWrites.pins.strq = true ∧
      t = { s.hostWrites with run := .stopped }.nextBoundary false) ∨
    (s.hostWrites.pins.reset = false ∧ s.hostWrites.run = .running ∧ s.hostWrites.pins.strq = false ∧
      s.hostWrites.acknowledges = true ∧
      t = (s.hostWrites.takeInterrupt s.hostWrites.pins.irn).nextBoundary true) ∨
    (s.hostWrites.pins.reset = false ∧ s.hostWrites.run = .running ∧ s.hostWrites.pins.strq = false ∧
      s.hostWrites.acknowledges = false ∧
      ∃ i u, decode s.hostWrites.cfg.enc s.hostWrites.fetched = .ok i ∧ exec i s.hostWrites = .next u ∧
        t = (u.noteExecuted s.hostWrites.pc).nextBoundary false) ∨
    (s.hostWrites.pins.reset = false ∧ s.hostWrites.run = .stopped ∧ s.hostWrites.pins.debug = .wait ∧
      t = s.hostWrites.nextBoundary false) ∨
    (s.hostWrites.pins.reset = false ∧ s.hostWrites.run = .stopped ∧
      ∃ op i u, s.hostWrites.pins.debug = .inject op ∧ decode s.hostWrites.cfg.enc op = .ok i ∧
        exec i s.hostWrites = .next u ∧ t = u.nextBoundary false) ∨
    (s.hostWrites.pins.reset = false ∧ s.hostWrites.run = .stopped ∧ s.hostWrites.pins.debug = .resume ∧
      t = { s.hostWrites with run := .running }.nextBoundary false) := by
  unfold step boundary at h
  generalize s.hostWrites = w at h ⊢
  cases hr : w.pins.reset
  · simp only [hr, Bool.false_eq_true, if_false] at h
    cases hrun : w.run
    · simp only [hrun, runningBoundary] at h
      cases hs : w.pins.strq
      · simp only [hs, Bool.false_eq_true, if_false] at h
        cases ha : w.acknowledges
        · simp only [ha, Bool.false_eq_true, if_false] at h
          obtain ⟨u, hu, rfl⟩ := mapNext_next_iff.1 h
          obtain ⟨i, hd, he⟩ := runWord_next_iff.1 hu
          simp [hd, he]
        · simp only [ha, if_true, Host.Outcome.next.injEq] at h
          simp [h]
      · simp only [hs, if_true, Host.Outcome.next.injEq] at h
        simp [h]
    · simp only [hrun, stoppedBoundary] at h
      cases hd : w.pins.debug with
      | wait => simp only [hd, Host.Outcome.next.injEq] at h; simp [h]
      | inject op =>
        simp only [hd] at h
        obtain ⟨u, hu, rfl⟩ := mapNext_next_iff.1 h
        obtain ⟨i, hd, he⟩ := runWord_next_iff.1 hu
        refine .inr (.inr (.inr (.inr (.inr (.inl ⟨rfl, rfl, op, i, u, rfl, hd, he, rfl⟩)))))
      | resume => simp only [hd, Host.Outcome.next.injEq] at h; simp [h]
  · simp only [hr, if_true, Host.Outcome.next.injEq] at h
    exact .inl ⟨rfl, h.symm⟩

end Sys2Proof.Machine
end

