-- ==== Sys2Proof/Laws/PerInstr.lean ====
section
/-! SUPPORT. The per-instruction family `OpcodeRow`: the fixed bits that spec/opcode_table.json gives an instruction's row
(its mask and match) are the bits of its word under the default parameters (R101, R110 to R125, R130). -/

namespace Sys2Proof.Laws

/-- The row of the opcode table: mask and match. -/
def opcodeRow : Instr → Word × Word
  | .ldbtDirect _ _ => (0x001F, 0x0000)
  | .ldbtOffset _ _ _ => (0x041F, 0x0004)
  | .ldbtIndex _ _ _ => (0xC41F, 0x0404)
  | .ldbtPostInc _ _ => (0xFC1F, 0x4404)
  | .ldbtPreDec _ _ => (0xFC1F, 0x4C04)
  | .ldbtPostUpd _ _ => (0xFC1F, 0x5404)
  | .ldbtRgs _ _ => (0x841F, 0x8404)
  | .ldshDirect _ _ => (0x001F, 0x0008)
  | .ldshOffset _ _ _ => (0x041F, 0x000C)
  | .ldshIndex _ _ _ => (0xC41F, 0x040C)
  | .ldshPostInc _ _ => (0xFC1F, 0x440C)
  | .ldshPreDec _ _ => (0xFC1F, 0x4C0C)
  | .ldshPostUpd _ _ => (0xFC1F, 0x540C)
  | .ldshRgs _ _ => (0x841F, 0x840C)
  | .stbtDirect _ _ => (0x001F, 0x0010)
  | .stbtOffset _ _ _ => (0x041F, 0x0014)
  | .stbtIndex _ _ _ => (0xC41F, 0x0414)
  | .stbtPostInc _ _ => (0xFC1F, 0x4414)
  | .stbtPreDec _ _ => (0xFC1F, 0x4C14)
  | .stbtPostUpd _ _ => (0xFC1F, 0x5414)
  | .stbtRgs _ _ => (0x841F, 0x8414)
  | .stshDirect _ _ => (0x001F, 0x0018)
  | .stshOffset _ _ _ => (0x041F, 0x001C)
  | .stshIndex _ _ _ => (0xC41F, 0x041C)
  | .stshPostInc _ _ => (0xFC1F, 0x441C)
  | .stshPreDec _ _ => (0xFC1F, 0x4C1C)
  | .stshPostUpd _ _ => (0xFC1F, 0x541C)
  | .stshRgs _ _ => (0x841F, 0x841C)
  | .jumpIa12 _ => (0x000F, 0x0001)
  | .jpsrIa12 _ => (0x000F, 0x0009)
  | .brnc _ => (0x00FF, 0x0015)
  | .brcr _ => (0x00FF, 0x0035)
  | .brno _ => (0x00FF, 0x0055)
  | .brof _ => (0x00FF, 0x0075)
  | .brnz _ => (0x00FF, 0x0095)
  | .brzr _ => (0x00FF, 0x00B5)
  | .brps _ => (0x00FF, 0x00D5)
  | .brng _ => (0x00FF, 0x00F5)
  | .brls _ => (0x00FF, 0x001D)
  | .brhi _ => (0x00FF, 0x003D)
  | .brlo _ => (0x00FF, 0x005D)
  | .brge _ => (0x00FF, 0x007D)
  | .brle _ => (0x00FF, 0x009D)
  | .brgt _ => (0x00FF, 0x00BD)
  | .bral _ => (0x00FF, 0x00DD)
  | .brlc _ => (0x00FF, 0x00FD)
  | .siah _ => (0xFE1F, 0x0005)
  | .jumpTa => (0xFFFF, 0x000D)
  | .jpsrTa => (0xFFFF, 0x002D)
  | .rtsr => (0xFFFF, 0x004D)
  | .rtir => (0xFFFF, 0x006D)
  | .stop => (0xFFFF, 0x008D)
  | .svpc => (0xFFFF, 0x00CD)
  | .rspc => (0xFFFF, 0x00ED)
  | .stie => (0xFFFF, 0x010D)
  | .clie => (0xFFFF, 0x012D)
  | .rsie => (0xFFFF, 0x014D)
  | .scie => (0xFFFF, 0x016D)
  | .stas => (0xFFFF, 0x018D)
  | .clas => (0xFFFF, 0x01AD)
  | .moveConst _ _ => (0x000F, 0x0003)
  | .addh _ _ => (0x001F, 0x0007)
  | .subfConst _ _ => (0x001F, 0x000B)
  | .addtConst _ _ => (0x001F, 0x000F)
  | .andbConst _ _ => (0x001F, 0x0017)
  | .iorbConst _ _ => (0x001F, 0x001B)
  | .compPos _ _ => (0x001F, 0x001F)
  | .subf _ _ _ => (0xC01F, 0x0002)
  | .addt _ _ _ => (0xC01F, 0x0006)
  | .subc _ _ _ => (0xC01F, 0x000A)
  | .addc _ _ _ => (0xC01F, 0x000E)
  | .mult _ _ _ => (0xC01F, 0x0012)
  | .andb _ _ _ => (0xC01F, 0x0016)
  | .iorb _ _ _ => (0xC01F, 0x001A)
  | .xorb _ _ _ => (0xC01F, 0x001E)
  | .shlz _ _ _ => (0xC01F, 0x4002)
  | .shru _ _ _ => (0xC01F, 0x4006)
  | .shlf _ _ _ => (0xC01F, 0x400A)
  | .shrs _ _ _ => (0xC01F, 0x400E)
  | .btcl _ _ _ => (0xC01F, 0x4012)
  | .btts _ _ => (0xC0FF, 0x4016)
  | .btst _ _ _ => (0xC01F, 0x401A)
  | .bttg _ _ _ => (0xC01F, 0x401E)
  | .mlhu _ _ _ => (0xC01F, 0x8002)
  | .mlhs _ _ _ => (0xC01F, 0x8006)
  | .comp _ _ => (0xC0FF, 0x8012)
  | .cmpc _ _ => (0xC0FF, 0x8032)
  | .compNeg _ _ => (0xC01F, 0x8016)
  | .adsp _ _ => (0xC01F, 0x801A)
  | .mtsrConstCc _ => (0xC07F, 0x801E)
  | .mtsrConstCs _ => (0xC07F, 0x803E)
  | .mtsrConstLc _ => (0xC07F, 0x805E)
  | .mtsrConstAu _ => (0xC07F, 0x807E)
  | .shlzConst _ _ => (0xC31F, 0xC202)
  | .shruConst _ _ => (0xC31F, 0xC206)
  | .shlfConst _ _ => (0xC31F, 0xC20A)
  | .shrsConst _ _ => (0xC31F, 0xC20E)
  | .btclConst _ _ => (0xC31F, 0xC212)
  | .bttsConst _ _ => (0xC31F, 0xC216)
  | .btstConst _ _ => (0xC31F, 0xC21A)
  | .bttgConst _ _ => (0xC31F, 0xC21E)
  | .move _ _ => (0xC71F, 0xC002)
  | .negt _ _ => (0xC71F, 0xC00A)
  | .absl _ _ => (0xC71F, 0xC00E)
  | .invt _ _ => (0xC71F, 0xC012)
  | .clzr _ _ => (0xC71F, 0xC016)
  | .sxbt _ _ => (0xC71F, 0xC01A)
  | .sxsh _ _ => (0xC71F, 0xC01E)
  | .sbcf _ _ => (0xC71F, 0xC102)
  | .adcf _ _ => (0xC71F, 0xC106)
  | .cpcf _ => (0xC7FF, 0xC10A)
  | .mfdp _ => (0xFF1F, 0xC302)
  | .mtdp _ => (0xFF1F, 0xC306)
  | .mfsr _ _ => (0xC71F, 0xC30A)
  | .mtsr _ _ => (0xC71F, 0xC30E)

/-- The word of the instruction has the fixed bits of its row. -/
def OpcodeRow.Statement (i : Instr) : Prop :=
  encode .default i &&& (opcodeRow i).1 = (opcodeRow i).2

theorem fixed_direct (f : BitVec 8) (d : BitVec 3) (o : BitVec 5) :
    (Groups.ofDirect f d o).toWord &&& 0x001F = 0#11 ++ o := by
  apply BitVec.eq_of_getLsbD_eq
  intro i hi
  simp only [Groups.toWord, Groups.ofDirect, BitVec.getLsbD_and, BitVec.getLsbD_append]
  rcases i with _ | _ | _ | _ | _ | _ | _ | _ | _ | _ | _ | _ | _ | _ | _ | _ | i <;> first | omega | simp

theorem fixed_offset (f : BitVec 5) (n : BitVec 2) (d : BitVec 3) (o : BitVec 5) :
    (Groups.ofOffset f n d o).toWord &&& 0x041F = 0#11 ++ o := by
  apply BitVec.eq_of_getLsbD_eq
  intro i hi
  simp only [Groups.toWord, Groups.ofOffset, BitVec.getLsbD_and, BitVec.getLsbD_append]
  rcases i with _ | _ | _ | _ | _ | _ | _ | _ | _ | _ | _ | _ | _ | _ | _ | _ | i <;> first | omega | simp

theorem fixed_index (a : BitVec 3) (n : BitVec 2) (d : BitVec 3) (o : BitVec 5) :
    (Groups.ofMode 0b00#2 a n d o).toWord &&& 0xC41F = 0b00000100000#11 ++ o := by
  apply BitVec.eq_of_getLsbD_eq
  intro i hi
  simp only [Groups.toWord, Groups.ofMode, BitVec.getLsbD_and, BitVec.getLsbD_append]
  rcases i with _ | _ | _ | _ | _ | _ | _ | _ | _ | _ | _ | _ | _ | _ | _ | _ | i <;> first | omega | simp

theorem fixed_updating (h : BitVec 2) (a : BitVec 3) (n : BitVec 2) (d : BitVec 3) (o : BitVec 5) :
    (Groups.ofMode h a n d o).toWord &&& 0xFC1F = h ++ a ++ 0b100000#6 ++ o := by
  apply BitVec.eq_of_getLsbD_eq
  intro i hi
  simp only [Groups.toWord, Groups.ofMode, BitVec.getLsbD_and, BitVec.getLsbD_append]
  rcases i with _ | _ | _ | _ | _ | _ | _ | _ | _ | _ | _ | _ | _ | _ | _ | _ | i <;> first | omega | simp

theorem fixed_selection (f : BitVec 7) (n : BitVec 2) (o : BitVec 5) :
    (Groups.ofFlags f n o).toWord &&& 0x841F = 0b10000100000#11 ++ o := by
  apply BitVec.eq_of_getLsbD_eq
  intro i hi
  simp only [Groups.toWord, Groups.ofFlags, BitVec.getLsbD_and, BitVec.getLsbD_append]
  rcases i with _ | _ | _ | _ | _ | _ | _ | _ | _ | _ | _ | _ | _ | _ | _ | _ | i <;> first | omega | simp

theorem fixed_absolute (f : BitVec 12) (o : BitVec 4) :
    (Groups.ofIa12 f o).toWord &&& 0x000F = 0#12 ++ o := by
  apply BitVec.eq_of_getLsbD_eq
  intro i hi
  simp only [Groups.toWord, Groups.ofIa12, BitVec.getLsbD_and, BitVec.getLsbD_append]
  rcases i with _ | _ | _ | _ | _ | _ | _ | _ | _ | _ | _ | _ | _ | _ | _ | _ | i <;> first | omega | simp

theorem fixed_code (f : BitVec 4) (o : BitVec 5) :
    (Groups.ofCode4 f o).toWord &&& 0xFE1F = 0#11 ++ o := by
  apply BitVec.eq_of_getLsbD_eq
  intro i hi
  simp only [Groups.toWord, Groups.ofCode4, BitVec.getLsbD_and, BitVec.getLsbD_append]
  rcases i with _ | _ | _ | _ | _ | _ | _ | _ | _ | _ | _ | _ | _ | _ | _ | _ | i <;> first | omega | simp

theorem fixed_branch (f : BitVec 8) (d : BitVec 3) (o : BitVec 5) :
    (Groups.ofByteField f d o).toWord &&& 0x00FF = 0#8 ++ d ++ o := by
  apply BitVec.eq_of_getLsbD_eq
  intro i hi
  simp only [Groups.toWord, Groups.ofByteField, BitVec.getLsbD_and, BitVec.getLsbD_append]
  rcases i with _ | _ | _ | _ | _ | _ | _ | _ | _ | _ | _ | _ | _ | _ | _ | _ | i <;> first | omega | simp

theorem fixed_constant (f : BitVec 8) (d : BitVec 3) (o : BitVec 5) :
    (Groups.ofByteField f d o).toWord &&& 0x001F = 0#11 ++ o := by
  apply BitVec.eq_of_getLsbD_eq
  intro i hi
  simp only [Groups.toWord, Groups.ofByteField, BitVec.getLsbD_and, BitVec.getLsbD_append]
  rcases i with _ | _ | _ | _ | _ | _ | _ | _ | _ | _ | _ | _ | _ | _ | _ | _ | i <;> first | omega | simp

theorem fixed_constant9 (f : BitVec 8) (d : BitVec 3) (k : BitVec 1) (o : BitVec 4) :
    (Groups.ofByteField f d (k ++ o)).toWord &&& 0x000F = 0#12 ++ o := by
  apply BitVec.eq_of_getLsbD_eq
  intro i hi
  simp only [Groups.toWord, Groups.ofByteField, BitVec.getLsbD_and, BitVec.getLsbD_append]
  rcases i with _ | _ | _ | _ | _ | _ | _ | _ | _ | _ | _ | _ | _ | _ | _ | _ | i <;> first | omega | simp

theorem fixed_three (h : BitVec 2) (a b d : BitVec 3) (o : BitVec 5) :
    (Groups.mk h a b d o).toWord &&& 0xC01F = h ++ 0#9 ++ o := by
  apply BitVec.eq_of_getLsbD_eq
  intro i hi
  simp only [Groups.toWord, BitVec.getLsbD_and, BitVec.getLsbD_append]
  rcases i with _ | _ | _ | _ | _ | _ | _ | _ | _ | _ | _ | _ | _ | _ | _ | _ | i <;> first | omega | simp

theorem fixed_pair (h : BitVec 2) (a b d : BitVec 3) (o : BitVec 5) :
    (Groups.mk h a b d o).toWord &&& 0xC0FF = h ++ 0#6 ++ d ++ o := by
  apply BitVec.eq_of_getLsbD_eq
  intro i hi
  simp only [Groups.toWord, BitVec.getLsbD_and, BitVec.getLsbD_append]
  rcases i with _ | _ | _ | _ | _ | _ | _ | _ | _ | _ | _ | _ | _ | _ | _ | _ | i <;> first | omega | simp

theorem fixed_toAddress (c : BitVec 7) (n : BitVec 2) (o : BitVec 5) :
    (Groups.ofC7 c n o).toWord &&& 0xC01F = 0b10#2 ++ 0#9 ++ o := by
  apply BitVec.eq_of_getLsbD_eq
  intro i hi
  simp only [Groups.toWord, Groups.ofC7, BitVec.getLsbD_and, BitVec.getLsbD_append]
  rcases i with _ | _ | _ | _ | _ | _ | _ | _ | _ | _ | _ | _ | _ | _ | _ | _ | i <;> first | omega | simp

theorem fixed_toSpecial (c : BitVec 7) (n : BitVec 2) (o : BitVec 5) :
    (Groups.ofC7 c n o).toWord &&& 0xC07F = 0b10#2 ++ 0#7 ++ n ++ o := by
  apply BitVec.eq_of_getLsbD_eq
  intro i hi
  simp only [Groups.toWord, Groups.ofC7, BitVec.getLsbD_and, BitVec.getLsbD_append]
  rcases i with _ | _ | _ | _ | _ | _ | _ | _ | _ | _ | _ | _ | _ | _ | _ | _ | i <;> first | omega | simp

theorem fixed_count (k : BitVec 4) (d : BitVec 3) (o : BitVec 5) :
    (Groups.ofCount4 k d o).toWord &&& 0xC31F = 0b110000#6 ++ 0b10000#5 ++ o := by
  apply BitVec.eq_of_getLsbD_eq
  intro i hi
  simp only [Groups.toWord, Groups.ofCount4, BitVec.getLsbD_and, BitVec.getLsbD_append]
  rcases i with _ | _ | _ | _ | _ | _ | _ | _ | _ | _ | _ | _ | _ | _ | _ | _ | i <;> first | omega | simp

theorem fixed_dyadic (a b d : BitVec 3) (o : BitVec 5) :
    (Groups.mk 0b11#2 a b d o).toWord &&& 0xC71F = 0b11#2 ++ 0#3 ++ b ++ 0#3 ++ o := by
  apply BitVec.eq_of_getLsbD_eq
  intro i hi
  simp only [Groups.toWord, BitVec.getLsbD_and, BitVec.getLsbD_append]
  rcases i with _ | _ | _ | _ | _ | _ | _ | _ | _ | _ | _ | _ | _ | _ | _ | _ | i <;> first | omega | simp

theorem fixed_single (a b d : BitVec 3) (o : BitVec 5) :
    (Groups.mk 0b11#2 a b d o).toWord &&& 0xC7FF = 0b11#2 ++ 0#3 ++ b ++ d ++ o := by
  apply BitVec.eq_of_getLsbD_eq
  intro i hi
  simp only [Groups.toWord, BitVec.getLsbD_and, BitVec.getLsbD_append]
  rcases i with _ | _ | _ | _ | _ | _ | _ | _ | _ | _ | _ | _ | _ | _ | _ | _ | i <;> first | omega | simp

theorem fixed_port (a b d : BitVec 3) (o : BitVec 5) :
    (Groups.mk 0b11#2 a b d o).toWord &&& 0xFF1F = 0b11#2 ++ a ++ b ++ 0#3 ++ o := by
  apply BitVec.eq_of_getLsbD_eq
  intro i hi
  simp only [Groups.toWord, BitVec.getLsbD_and, BitVec.getLsbD_append]
  rcases i with _ | _ | _ | _ | _ | _ | _ | _ | _ | _ | _ | _ | _ | _ | _ | _ | i <;> first | omega | simp

theorem OpcodeRow.ldbtDirect (da8 : BitVec 8) (rd : GReg) : OpcodeRow.Statement (.ldbtDirect da8 rd) :=
  fixed_direct _ _ _
theorem OpcodeRow.ldbtOffset (ofs : BitVec 5) (an : AReg) (rd : GReg) : OpcodeRow.Statement (.ldbtOffset ofs an rd) :=
  fixed_offset _ _ _ _
theorem OpcodeRow.ldbtIndex (rx : GReg) (an : AReg) (rd : GReg) : OpcodeRow.Statement (.ldbtIndex rx an rd) :=
  fixed_index _ _ _ _
theorem OpcodeRow.ldbtPostInc (an : AReg) (rd : GReg) : OpcodeRow.Statement (.ldbtPostInc an rd) :=
  fixed_updating _ _ _ _ _
theorem OpcodeRow.ldbtPreDec (an : AReg) (rd : GReg) : OpcodeRow.Statement (.ldbtPreDec an rd) :=
  fixed_updating _ _ _ _ _
theorem OpcodeRow.ldbtPostUpd (an : AReg) (rd : GReg) : OpcodeRow.Statement (.ldbtPostUpd an rd) :=
  fixed_updating _ _ _ _ _
theorem OpcodeRow.ldbtRgs (an : AReg) (sel : BitVec 7) : OpcodeRow.Statement (.ldbtRgs an sel) :=
  fixed_selection _ _ _
theorem OpcodeRow.ldshDirect (da8 : BitVec 8) (rd : GReg) : OpcodeRow.Statement (.ldshDirect da8 rd) :=
  fixed_direct _ _ _
theorem OpcodeRow.ldshOffset (ofs : BitVec 5) (an : AReg) (rd : GReg) : OpcodeRow.Statement (.ldshOffset ofs an rd) :=
  fixed_offset _ _ _ _
theorem OpcodeRow.ldshIndex (rx : GReg) (an : AReg) (rd : GReg) : OpcodeRow.Statement (.ldshIndex rx an rd) :=
  fixed_index _ _ _ _
theorem OpcodeRow.ldshPostInc (an : AReg) (rd : GReg) : OpcodeRow.Statement (.ldshPostInc an rd) :=
  fixed_updating _ _ _ _ _
theorem OpcodeRow.ldshPreDec (an : AReg) (rd : GReg) : OpcodeRow.Statement (.ldshPreDec an rd) :=
  fixed_updating _ _ _ _ _
theorem OpcodeRow.ldshPostUpd (an : AReg) (rd : GReg) : OpcodeRow.Statement (.ldshPostUpd an rd) :=
  fixed_updating _ _ _ _ _
theorem OpcodeRow.ldshRgs (an : AReg) (sel : BitVec 7) : OpcodeRow.Statement (.ldshRgs an sel) :=
  fixed_selection _ _ _
theorem OpcodeRow.stbtDirect (rs : GReg) (da8 : BitVec 8) : OpcodeRow.Statement (.stbtDirect rs da8) :=
  fixed_direct _ _ _
theorem OpcodeRow.stbtOffset (rs : GReg) (ofs : BitVec 5) (an : AReg) : OpcodeRow.Statement (.stbtOffset rs ofs an) :=
  fixed_offset _ _ _ _
theorem OpcodeRow.stbtIndex (rs : GReg) (rx : GReg) (an : AReg) : OpcodeRow.Statement (.stbtIndex rs rx an) :=
  fixed_index _ _ _ _
theorem OpcodeRow.stbtPostInc (rs : GReg) (an : AReg) : OpcodeRow.Statement (.stbtPostInc rs an) :=
  fixed_updating _ _ _ _ _
theorem OpcodeRow.stbtPreDec (rs : GReg) (an : AReg) : OpcodeRow.Statement (.stbtPreDec rs an) :=
  fixed_updating _ _ _ _ _
theorem OpcodeRow.stbtPostUpd (rs : GReg) (an : AReg) : OpcodeRow.Statement (.stbtPostUpd rs an) :=
  fixed_updating _ _ _ _ _
theorem OpcodeRow.stbtRgs (sel : BitVec 7) (an : AReg) : OpcodeRow.Statement (.stbtRgs sel an) :=
  fixed_selection _ _ _
theorem OpcodeRow.stshDirect (rs : GReg) (da8 : BitVec 8) : OpcodeRow.Statement (.stshDirect rs da8) :=
  fixed_direct _ _ _
theorem OpcodeRow.stshOffset (rs : GReg) (ofs : BitVec 5) (an : AReg) : OpcodeRow.Statement (.stshOffset rs ofs an) :=
  fixed_offset _ _ _ _
theorem OpcodeRow.stshIndex (rs : GReg) (rx : GReg) (an : AReg) : OpcodeRow.Statement (.stshIndex rs rx an) :=
  fixed_index _ _ _ _
theorem OpcodeRow.stshPostInc (rs : GReg) (an : AReg) : OpcodeRow.Statement (.stshPostInc rs an) :=
  fixed_updating _ _ _ _ _
theorem OpcodeRow.stshPreDec (rs : GReg) (an : AReg) : OpcodeRow.Statement (.stshPreDec rs an) :=
  fixed_updating _ _ _ _ _
theorem OpcodeRow.stshPostUpd (rs : GReg) (an : AReg) : OpcodeRow.Statement (.stshPostUpd rs an) :=
  fixed_updating _ _ _ _ _
theorem OpcodeRow.stshRgs (sel : BitVec 7) (an : AReg) : OpcodeRow.Statement (.stshRgs sel an) :=
  fixed_selection _ _ _
theorem OpcodeRow.jumpIa12 (ia12 : BitVec 12) : OpcodeRow.Statement (.jumpIa12 ia12) :=
  fixed_absolute _ _
theorem OpcodeRow.jpsrIa12 (ia12 : BitVec 12) : OpcodeRow.Statement (.jpsrIa12 ia12) :=
  fixed_absolute _ _
theorem OpcodeRow.brnc (io8 : BitVec 8) : OpcodeRow.Statement (.brnc io8) :=
  fixed_branch _ _ _
theorem OpcodeRow.brcr (io8 : BitVec 8) : OpcodeRow.Statement (.brcr io8) :=
  fixed_branch _ _ _
theorem OpcodeRow.brno (io8 : BitVec 8) : OpcodeRow.Statement (.brno io8) :=
  fixed_branch _ _ _
theorem OpcodeRow.brof (io8 : BitVec 8) : OpcodeRow.Statement (.brof io8) :=
  fixed_branch _ _ _
theorem OpcodeRow.brnz (io8 : BitVec 8) : OpcodeRow.Statement (.brnz io8) :=
  fixed_branch _ _ _
theorem OpcodeRow.brzr (io8 : BitVec 8) : OpcodeRow.Statement (.brzr io8) :=
  fixed_branch _ _ _
theorem OpcodeRow.brps (io8 : BitVec 8) : OpcodeRow.Statement (.brps io8) :=
  fixed_branch _ _ _
theorem OpcodeRow.brng (io8 : BitVec 8) : OpcodeRow.Statement (.brng io8) :=
  fixed_branch _ _ _
theorem OpcodeRow.brls (io8 : BitVec 8) : OpcodeRow.Statement (.brls io8) :=
  fixed_branch _ _ _
theorem OpcodeRow.brhi (io8 : BitVec 8) : OpcodeRow.Statement (.brhi io8) :=
  fixed_branch _ _ _
theorem OpcodeRow.brlo (io8 : BitVec 8) : OpcodeRow.Statement (.brlo io8) :=
  fixed_branch _ _ _
theorem OpcodeRow.brge (io8 : BitVec 8) : OpcodeRow.Statement (.brge io8) :=
  fixed_branch _ _ _
theorem OpcodeRow.brle (io8 : BitVec 8) : OpcodeRow.Statement (.brle io8) :=
  fixed_branch _ _ _
theorem OpcodeRow.brgt (io8 : BitVec 8) : OpcodeRow.Statement (.brgt io8) :=
  fixed_branch _ _ _
theorem OpcodeRow.bral (io8 : BitVec 8) : OpcodeRow.Statement (.bral io8) :=
  fixed_branch _ _ _
theorem OpcodeRow.brlc (io8 : BitVec 8) : OpcodeRow.Statement (.brlc io8) :=
  fixed_branch _ _ _
theorem OpcodeRow.siah (iah4 : BitVec 4) : OpcodeRow.Statement (.siah iah4) :=
  fixed_code _ _
theorem OpcodeRow.jumpTa : OpcodeRow.Statement .jumpTa :=
  rfl
theorem OpcodeRow.jpsrTa : OpcodeRow.Statement .jpsrTa :=
  rfl
theorem OpcodeRow.rtsr : OpcodeRow.Statement .rtsr :=
  rfl
theorem OpcodeRow.rtir : OpcodeRow.Statement .rtir :=
  rfl
theorem OpcodeRow.stop : OpcodeRow.Statement .stop :=
  rfl
theorem OpcodeRow.svpc : OpcodeRow.Statement .svpc :=
  rfl
theorem OpcodeRow.rspc : OpcodeRow.Statement .rspc :=
  rfl
theorem OpcodeRow.stie : OpcodeRow.Statement .stie :=
  rfl
theorem OpcodeRow.clie : OpcodeRow.Statement .clie :=
  rfl
theorem OpcodeRow.rsie : OpcodeRow.Statement .rsie :=
  rfl
theorem OpcodeRow.scie : OpcodeRow.Statement .scie :=
  rfl
theorem OpcodeRow.stas : OpcodeRow.Statement .stas :=
  rfl
theorem OpcodeRow.clas : OpcodeRow.Statement .clas :=
  rfl
theorem OpcodeRow.moveConst (c9s : BitVec 9) (rd : GReg) : OpcodeRow.Statement (.moveConst c9s rd) :=
  fixed_constant9 _ _ _ _
theorem OpcodeRow.addh (c16 : BitVec 8) (rb : GReg) : OpcodeRow.Statement (.addh c16 rb) :=
  fixed_constant _ _ _
theorem OpcodeRow.subfConst (c8un : BitVec 8) (rb : GReg) : OpcodeRow.Statement (.subfConst c8un rb) :=
  fixed_constant _ _ _
theorem OpcodeRow.addtConst (c8un : BitVec 8) (rb : GReg) : OpcodeRow.Statement (.addtConst c8un rb) :=
  fixed_constant _ _ _
theorem OpcodeRow.andbConst (c8u : BitVec 8) (rb : GReg) : OpcodeRow.Statement (.andbConst c8u rb) :=
  fixed_constant _ _ _
theorem OpcodeRow.iorbConst (c8u : BitVec 8) (rb : GReg) : OpcodeRow.Statement (.iorbConst c8u rb) :=
  fixed_constant _ _ _
theorem OpcodeRow.compPos (c8a : BitVec 8) (rs1 : GReg) : OpcodeRow.Statement (.compPos c8a rs1) :=
  fixed_constant _ _ _
theorem OpcodeRow.subf (rs0 : GReg) (rs1 : GReg) (rd : GReg) : OpcodeRow.Statement (.subf rs0 rs1 rd) :=
  fixed_three _ _ _ _ _
theorem OpcodeRow.addt (rs0 : GReg) (rs1 : GReg) (rd : GReg) : OpcodeRow.Statement (.addt rs0 rs1 rd) :=
  fixed_three _ _ _ _ _
theorem OpcodeRow.subc (rs0 : GReg) (rs1 : GReg) (rd : GReg) : OpcodeRow.Statement (.subc rs0 rs1 rd) :=
  fixed_three _ _ _ _ _
theorem OpcodeRow.addc (rs0 : GReg) (rs1 : GReg) (rd : GReg) : OpcodeRow.Statement (.addc rs0 rs1 rd) :=
  fixed_three _ _ _ _ _
theorem OpcodeRow.mult (rs0 : GReg) (rs1 : GReg) (rd : GReg) : OpcodeRow.Statement (.mult rs0 rs1 rd) :=
  fixed_three _ _ _ _ _
theorem OpcodeRow.andb (rs0 : GReg) (rs1 : GReg) (rd : GReg) : OpcodeRow.Statement (.andb rs0 rs1 rd) :=
  fixed_three _ _ _ _ _
theorem OpcodeRow.iorb (rs0 : GReg) (rs1 : GReg) (rd : GReg) : OpcodeRow.Statement (.iorb rs0 rs1 rd) :=
  fixed_three _ _ _ _ _
theorem OpcodeRow.xorb (rs0 : GReg) (rs1 : GReg) (rd : GReg) : OpcodeRow.Statement (.xorb rs0 rs1 rd) :=
  fixed_three _ _ _ _ _
theorem OpcodeRow.shlz (rs0 : GReg) (rs1 : GReg) (rd : GReg) : OpcodeRow.Statement (.shlz rs0 rs1 rd) :=
  fixed_three _ _ _ _ _
theorem OpcodeRow.shru (rs0 : GReg) (rs1 : GReg) (rd : GReg) : OpcodeRow.Statement (.shru rs0 rs1 rd) :=
  fixed_three _ _ _ _ _
theorem OpcodeRow.shlf (rs0 : GReg) (rs1 : GReg) (rd : GReg) : OpcodeRow.Statement (.shlf rs0 rs1 rd) :=
  fixed_three _ _ _ _ _
theorem OpcodeRow.shrs (rs0 : GReg) (rs1 : GReg) (rd : GReg) : OpcodeRow.Statement (.shrs rs0 rs1 rd) :=
  fixed_three _ _ _ _ _
theorem OpcodeRow.btcl (rs0 : GReg) (rs1 : GReg) (rd : GReg) : OpcodeRow.Statement (.btcl rs0 rs1 rd) :=
  fixed_three _ _ _ _ _
theorem OpcodeRow.btts (rs0 : GReg) (rs1 : GReg) : OpcodeRow.Statement (.btts rs0 rs1) :=
  fixed_pair _ _ _ _ _
theorem OpcodeRow.btst (rs0 : GReg) (rs1 : GReg) (rd : GReg) : OpcodeRow.Statement (.btst rs0 rs1 rd) :=
  fixed_three _ _ _ _ _
theorem OpcodeRow.bttg (rs0 : GReg) (rs1 : GReg) (rd : GReg) : OpcodeRow.Statement (.bttg rs0 rs1 rd) :=
  fixed_three _ _ _ _ _
theorem OpcodeRow.mlhu (rs0 : GReg) (rs1 : GReg) (rd : GReg) : OpcodeRow.Statement (.mlhu rs0 rs1 rd) :=
  fixed_three _ _ _ _ _
theorem OpcodeRow.mlhs (rs0 : GReg) (rs1 : GReg) (rd : GReg) : OpcodeRow.Statement (.mlhs rs0 rs1 rd) :=
  fixed_three _ _ _ _ _
theorem OpcodeRow.comp (rs0 : GReg) (rs1 : GReg) : OpcodeRow.Statement (.comp rs0 rs1) :=
  fixed_pair _ _ _ _ _
theorem OpcodeRow.cmpc (rs0 : GReg) (rs1 : GReg) : OpcodeRow.Statement (.cmpc rs0 rs1) :=
  fixed_pair _ _ _ _ _
theorem OpcodeRow.compNeg (c8a : BitVec 6) (rs1 : GReg) : OpcodeRow.Statement (.compNeg c8a rs1) :=
  fixed_three _ _ _ _ _
theorem OpcodeRow.adsp (c7sn : BitVec 7) (ad : AReg) : OpcodeRow.Statement (.adsp c7sn ad) :=
  fixed_toAddress _ _ _
theorem OpcodeRow.mtsrConstCc (c7u : BitVec 7) : OpcodeRow.Statement (.mtsrConstCc c7u) :=
  fixed_toSpecial _ _ _
theorem OpcodeRow.mtsrConstCs (c7u : BitVec 7) : OpcodeRow.Statement (.mtsrConstCs c7u) :=
  fixed_toSpecial _ _ _
theorem OpcodeRow.mtsrConstLc (c7un : BitVec 7) : OpcodeRow.Statement (.mtsrConstLc c7un) :=
  fixed_toSpecial _ _ _
theorem OpcodeRow.mtsrConstAu (c7sn : BitVec 7) : OpcodeRow.Statement (.mtsrConstAu c7sn) :=
  fixed_toSpecial _ _ _
theorem OpcodeRow.shlzConst (shc4 : BitVec 4) (rb : GReg) : OpcodeRow.Statement (.shlzConst shc4 rb) :=
  fixed_count _ _ _
theorem OpcodeRow.shruConst (shc4 : BitVec 4) (rb : GReg) : OpcodeRow.Statement (.shruConst shc4 rb) :=
  fixed_count _ _ _
theorem OpcodeRow.shlfConst (shc4 : BitVec 4) (rb : GReg) : OpcodeRow.Statement (.shlfConst shc4 rb) :=
  fixed_count _ _ _
theorem OpcodeRow.shrsConst (shc4 : BitVec 4) (rb : GReg) : OpcodeRow.Statement (.shrsConst shc4 rb) :=
  fixed_count _ _ _
theorem OpcodeRow.btclConst (bti4 : BitVec 4) (rb : GReg) : OpcodeRow.Statement (.btclConst bti4 rb) :=
  fixed_count _ _ _
theorem OpcodeRow.bttsConst (bti4 : BitVec 4) (rs : GReg) : OpcodeRow.Statement (.bttsConst bti4 rs) :=
  fixed_count _ _ _
theorem OpcodeRow.btstConst (bti4 : BitVec 4) (rb : GReg) : OpcodeRow.Statement (.btstConst bti4 rb) :=
  fixed_count _ _ _
theorem OpcodeRow.bttgConst (bti4 : BitVec 4) (rb : GReg) : OpcodeRow.Statement (.bttgConst bti4 rb) :=
  fixed_count _ _ _
theorem OpcodeRow.move (rs : GReg) (rd : GReg) : OpcodeRow.Statement (.move rs rd) :=
  fixed_dyadic _ _ _ _
theorem OpcodeRow.negt (rs : GReg) (rd : GReg) : OpcodeRow.Statement (.negt rs rd) :=
  fixed_dyadic _ _ _ _
theorem OpcodeRow.absl (rs : GReg) (rd : GReg) : OpcodeRow.Statement (.absl rs rd) :=
  fixed_dyadic _ _ _ _
theorem OpcodeRow.invt (rs : GReg) (rd : GReg) : OpcodeRow.Statement (.invt rs rd) :=
  fixed_dyadic _ _ _ _
theorem OpcodeRow.clzr (rs : GReg) (rd : GReg) : OpcodeRow.Statement (.clzr rs rd) :=
  fixed_dyadic _ _ _ _
theorem OpcodeRow.sxbt (rs : GReg) (rd : GReg) : OpcodeRow.Statement (.sxbt rs rd) :=
  fixed_dyadic _ _ _ _
theorem OpcodeRow.sxsh (rs : GReg) (rd : GReg) : OpcodeRow.Statement (.sxsh rs rd) :=
  fixed_dyadic _ _ _ _
theorem OpcodeRow.sbcf (rs : GReg) (rd : GReg) : OpcodeRow.Statement (.sbcf rs rd) :=
  fixed_dyadic _ _ _ _
theorem OpcodeRow.adcf (rs : GReg) (rd : GReg) : OpcodeRow.Statement (.adcf rs rd) :=
  fixed_dyadic _ _ _ _
theorem OpcodeRow.cpcf (rs : GReg) : OpcodeRow.Statement (.cpcf rs) :=
  fixed_single _ _ _ _
theorem OpcodeRow.mfdp (rd : GReg) : OpcodeRow.Statement (.mfdp rd) :=
  fixed_port _ _ _ _
theorem OpcodeRow.mtdp (rs : GReg) : OpcodeRow.Statement (.mtdp rs) :=
  fixed_port _ _ _ _
theorem OpcodeRow.mfsr (srs : SReg) (rd : GReg) : OpcodeRow.Statement (.mfsr srs rd) :=
  fixed_dyadic _ _ _ _
theorem OpcodeRow.mtsr (rs : GReg) (srd : SReg) : OpcodeRow.Statement (.mtsr rs srd) :=
  fixed_dyadic _ _ _ _

end Sys2Proof.Laws
end

