-- ==== Sys2Proof/Tests/Slice0.lean ====
section
/-! SUPPORT. Tests: ill-formed terms that the checks refuse, words written bit by bit from the spec's encodings, one step
of each instruction with the values of the spec's vectors (95_test_vectors.md), the events of a boundary, and for every
statement with hypotheses a state that meets them. -/

namespace Sys2Proof.Tests

open Sys2Proof.Machine

/-! ## Well-formedness: a register selection without a register -/

theorem test_wf_ldbt_refused : (Instr.ldbtRgs .r6 0).wf = false := by decide
theorem test_wf_ldsh_refused : (Instr.ldshRgs .sp 0).wf = false := by decide
theorem test_wf_stbt_refused : (Instr.stbtRgs 0 .r7).wf = false := by decide
theorem test_wf_stsh_refused : (Instr.stshRgs 0 .ta).wf = false := by decide
theorem test_wf_one_register : (Instr.stshRgs 0b1000000 .ta).wf = true := by decide

/-! ## Decoding: every constructor, the word bit by bit from its row of R110 to R125 -/

/-- The words and the instructions that the decoder reads from them under the default parameters. -/
abbrev reads (l : List (Word × Instr)) : Prop := ∀ p ∈ l, decode .default p.1 = .ok p.2

theorem test_decode_loads : reads [
    (0b1111110101100000#16, .ldbtDirect 0xBF .r3),
    (0b0111100011000100#16, .ldbtOffset 0xF .sp .r6),
    (0b0011111100100100#16, .ldbtIndex .r7 .r7 .r1),
    (0b0100010101100100#16, .ldbtPostInc .ta .r3),
    (0b0100111110100100#16, .ldbtPreDec .r7 .r5),
    (0b0101010111100100#16, .ldbtPostUpd .ta .r7),
    (0b1101011101100100#16, .ldbtRgs .r7 0b1010011),
    (0b1111110101101000#16, .ldshDirect 0xBF .r3),
    (0b0111100011001100#16, .ldshOffset 0xF .sp .r6),
    (0b0011111100101100#16, .ldshIndex .r7 .r7 .r1),
    (0b0100010101101100#16, .ldshPostInc .ta .r3),
    (0b0100111110101100#16, .ldshPreDec .r7 .r5),
    (0b0101010111101100#16, .ldshPostUpd .ta .r7),
    (0b1101011101101100#16, .ldshRgs .r7 0b1010011)] := by decide

theorem test_decode_stores : reads [
    (0b1111110101010000#16, .stbtDirect .r2 0xBF),
    (0b0111100110010100#16, .stbtOffset .r4 0xF .ta),
    (0b0000010011110100#16, .stbtIndex .r7 .r0 .sp),
    (0b0100011001010100#16, .stbtPostInc .r2 .r6),
    (0b0100110010010100#16, .stbtPreDec .r4 .sp),
    (0b0101011011010100#16, .stbtPostUpd .r6 .r6),
    (0b1101110001010100#16, .stbtRgs 0b0101101 .sp),
    (0b1111110101011000#16, .stshDirect .r2 0xBF),
    (0b0111100110011100#16, .stshOffset .r4 0xF .ta),
    (0b0000010011111100#16, .stshIndex .r7 .r0 .sp),
    (0b0100011001011100#16, .stshPostInc .r2 .r6),
    (0b0100110010011100#16, .stshPreDec .r4 .sp),
    (0b0101011011011100#16, .stshPostUpd .r6 .r6),
    (0b1101110001011100#16, .stshRgs 0b0101101 .sp)] := by decide

theorem test_decode_jumps_and_branches : reads [
    (0b0101111010000001#16, .jumpIa12 0x5E8),
    (0b0101111010001001#16, .jpsrIa12 0x5E8),
    (0b1011111100010101#16, .brnc 0xBF),
    (0b1011111100110101#16, .brcr 0xBF),
    (0b1011111101010101#16, .brno 0xBF),
    (0b1011111101110101#16, .brof 0xBF),
    (0b1011111110010101#16, .brnz 0xBF),
    (0b1011111110110101#16, .brzr 0xBF),
    (0b1011111111010101#16, .brps 0xBF),
    (0b1011111111110101#16, .brng 0xBF),
    (0b1011111100011101#16, .brls 0xBF),
    (0b1011111100111101#16, .brhi 0xBF),
    (0b1011111101011101#16, .brlo 0xBF),
    (0b1011111101111101#16, .brge 0xBF),
    (0b1011111110011101#16, .brle 0xBF),
    (0b1011111110111101#16, .brgt 0xBF),
    (0b1011111111011101#16, .bral 0xBF),
    (0b1011111111111101#16, .brlc 0xBF)] := by decide

theorem test_decode_implied : reads [
    (0b0000000101000101#16, .siah 0xA),
    (0b0000000000001101#16, .jumpTa),
    (0b0000000000101101#16, .jpsrTa),
    (0b0000000001001101#16, .rtsr),
    (0b0000000001101101#16, .rtir),
    (0b0000000010001101#16, .stop),
    (0b0000000011001101#16, .svpc),
    (0b0000000011101101#16, .rspc),
    (0b0000000100001101#16, .stie),
    (0b0000000100101101#16, .clie),
    (0b0000000101001101#16, .rsie),
    (0b0000000101101101#16, .scie),
    (0b0000000110001101#16, .stas),
    (0b0000000110101101#16, .clas)] := by decide

theorem test_decode_constants : reads [
    (0b1100001111000011#16, .moveConst 0xC3 .r6),
    (0b1011111100000111#16, .addh 0xBF .r0),
    (0b1011111101001011#16, .subfConst 0xBF .r2),
    (0b1011111110001111#16, .addtConst 0xBF .r4),
    (0b1011111111010111#16, .andbConst 0xBF .r6),
    (0b1011111100011011#16, .iorbConst 0xBF .r0),
    (0b1011111101011111#16, .compPos 0xBF .r2)] := by decide

theorem test_decode_prefix00 : reads [
    (0b0001110010100010#16, .subf .r3 .r4 .r5),
    (0b0011011100000110#16, .addt .r6 .r7 .r0),
    (0b0000101001101010#16, .subc .r1 .r2 .r3),
    (0b0010010111001110#16, .addc .r4 .r5 .r6),
    (0b0011100000110010#16, .mult .r7 .r0 .r1),
    (0b0001001110010110#16, .andb .r2 .r3 .r4),
    (0b0010111011111010#16, .iorb .r5 .r6 .r7),
    (0b0000000101011110#16, .xorb .r0 .r1 .r2)] := by decide

theorem test_decode_prefix01 : reads [
    (0b0101110010100010#16, .shlz .r3 .r4 .r5),
    (0b0111011100000110#16, .shru .r6 .r7 .r0),
    (0b0100101001101010#16, .shlf .r1 .r2 .r3),
    (0b0110010111001110#16, .shrs .r4 .r5 .r6),
    (0b0111100000110010#16, .btcl .r7 .r0 .r1),
    (0b0101001100010110#16, .btts .r2 .r3),
    (0b0110010111011010#16, .btst .r4 .r5 .r6),
    (0b0111100000111110#16, .bttg .r7 .r0 .r1)] := by decide

theorem test_decode_prefix10 : reads [
    (0b1001001110000010#16, .mlhu .r2 .r3 .r4),
    (0b1010111011100110#16, .mlhs .r5 .r6 .r7),
    (0b1000000100010010#16, .comp .r0 .r1),
    (0b1001001100110010#16, .cmpc .r2 .r3),
    (0b1010111110110110#16, .compNeg 0x2F .r5),
    (0b1000001111011010#16, .adsp 0x43 .r6),
    (0b1000001110011110#16, .mtsrConstCc 0x43),
    (0b1000001110111110#16, .mtsrConstCs 0x43),
    (0b1000001111011110#16, .mtsrConstLc 0x43),
    (0b1000001111111110#16, .mtsrConstAu 0x43)] := by decide

theorem test_decode_counts : reads [
    (0b1110101010100010#16, .shlzConst 0xA .r5),
    (0b1110101011100110#16, .shruConst 0xA .r7),
    (0b1110101000101010#16, .shlfConst 0xA .r1),
    (0b1110101001101110#16, .shrsConst 0xA .r3),
    (0b1110101010110010#16, .btclConst 0xA .r5),
    (0b1110101011110110#16, .bttsConst 0xA .r7),
    (0b1110101000111010#16, .btstConst 0xA .r1),
    (0b1110101001111110#16, .bttgConst 0xA .r3)] := by decide

theorem test_decode_two_registers : reads [
    (0b1110000010100010#16, .move .r4 .r5),
    (0b1111000011101010#16, .negt .r6 .r7),
    (0b1100000000101110#16, .absl .r0 .r1),
    (0b1101000001110010#16, .invt .r2 .r3),
    (0b1110000010110110#16, .clzr .r4 .r5),
    (0b1111000011111010#16, .sxbt .r6 .r7),
    (0b1100000000111110#16, .sxsh .r0 .r1),
    (0b1101000101100010#16, .sbcf .r2 .r3),
    (0b1110000110100110#16, .adcf .r4 .r5),
    (0b1111000100001010#16, .cpcf .r6),
    (0b1100001111100010#16, .mfdp .r7),
    (0b1100001100000110#16, .mtdp .r0),
    (0b1110101101001010#16, .mfsr .ta .r2),
    (0b1111001101101110#16, .mtsr .r3 .sa)] := by decide

/-- The other choice of every encoding parameter, and register numbers in the reverse order (R22, R23, R130). -/
def otherEncoding : Encoding where
  srLow := .fromTop
  srHigh := .fromTop
  anNum := .fromTop
  iorbSlot := .slot11110
  sxbt := ⟨0b111, 0b000, by decide⟩
  sxsh := ⟨0b001, 0b011, by decide⟩
  svpc := .code1111
  cellsDiffer := by decide

/-- R130: the parameters move the words of these instructions, and of the register numbers. -/
theorem test_decode_other_parameters : ∀ p ∈ ([
    (0x0A7A, .xorb .r1 .r2 .r3), (0x0A7E, .iorb .r1 .r2 .r3), (0xCF42, .sxbt .r1 .r2), (0xC94E, .sxsh .r1 .r2),
    (0x01ED, .svpc), (0xFB2A, .mfsr .sp .r1), (0x801E, .mtsrConstAu 0), (0x4624, .ldbtPostInc .ta .r1)] :
    List (Word × Instr)), decode otherEncoding p.1 = .ok p.2 := by decide

/-! ## One step: the spec's vectors -/

/-- The state of the vectors with everything 0: pc = 0x0100, CS.IR = 0. -/
def zeroed : State := { State.reset with pc := 0x0100, cs := ⟨0, false, false, false, false⟩ }

/-- State M of the vectors. -/
def stateM : State :=
  { zeroed with
    cc := ⟨true, false, true, true⟩
    cs := { zeroed.cs with ivtp := 0x123, ie := true }
    lc := 0x0011
    au := 0x0022
    sp := 0x0033
    ta := 0x0044
    sa := 0x0055
    ira := 0x0066 }

/-- What one step that fetches this word leaves, if it answers a next state. -/
def after {α : Type} (w : Nat) (s : State) (f : State → α) : Option α :=
  match step (s.withFetchWord 16 w) with
  | .next t => some (f t)
  | _ => none

/-- How one step that fetches this word is refused, if it is. -/
def refusal (w : Nat) (s : State) : Option Refusal :=
  match step (s.withFetchWord 16 w) with
  | .refused r => some r
  | _ => none

/-- T2: `ldbt 0xFF,R7`. -/
theorem test_ldbt_T2 :
    after 0xFFE0 { zeroed with dmem := [(0x00FF, 0x80)] }
      (fun t => (t.x.r7, t.cc, t.pc)) = some (0x0080, ⟨false, false, false, false⟩, 0x0101) := by
  decide

/-- T7: `ldbt (-3,TA),R1`. -/
theorem test_ldbt_T7 :
    after 0xE924 { zeroed with ta := 0x0103, dmem := [(0x0100, 0x77)] }
      (fun t => (t.x.r1, t.cc, t.pc)) = some (0x0077, ⟨false, false, false, false⟩, 0x0101) := by
  decide

/-- T14: `ldbt (R2,SP),R1`. -/
theorem test_ldbt_T14 :
    after 0x1424 { zeroed with x := { zeroed.x with r2 := 0x0005 }, sp := 0x0100, dmem := [(0x0105, 0x42)] }
      (fun t => (t.x.r1, t.cc, t.pc)) = some (0x0042, ⟨false, false, false, false⟩, 0x0101) := by
  decide

/-- T19: `ldbt (R6)+,R1`. -/
theorem test_ldbt_T19 :
    after 0x4624 { zeroed with x := { zeroed.x with r6 := 0x0300 }, dmem := [(0x0300, 0x11)] }
      (fun t => (t.x.r1, t.x.r6, t.cc, t.pc)) = some (0x0011, 0x0301, ⟨false, false, false, false⟩, 0x0101) := by
  decide

/-- T23: `ldbt -(R6),R1`. -/
theorem test_ldbt_T23 :
    after 0x4E24 { zeroed with x := { zeroed.x with r6 := 0x0301 }, dmem := [(0x0300, 0x11)] }
      (fun t => (t.x.r1, t.x.r6, t.cc, t.pc)) = some (0x0011, 0x0300, ⟨false, false, false, false⟩, 0x0101) := by
  decide

/-- T28: `ldbt (R6)*,R1`. -/
theorem test_ldbt_T28 :
    after 0x5624 { zeroed with x := { zeroed.x with r6 := 0x0300 }, au := 0x0010, dmem := [(0x0300, 0x11)] }
      (fun t => (t.x.r1, t.x.r6, t.cc, t.pc)) = some (0x0011, 0x0310, ⟨false, false, false, false⟩, 0x0101) := by
  decide

/-- T39: `ldbt (R7)+,{R0,R1,R4}`. -/
theorem test_ldbt_T39 :
    after 0x9764 { zeroed with x := { zeroed.x with r7 := 0x0200 }, dmem := [(0x0200, 0x11), (0x0201, 0x22),
      (0x0202, 0x33)] }
      (fun t => (t.x.r0, t.x.r1, t.x.r4, t.x.r7, t.cc, t.pc)) = some (0x0011, 0x0022, 0x0033, 0x0203, ⟨false, false,
      false, false⟩, 0x0101) := by
  decide

/-- T3: `ldsh 0x4A,R1`. -/
theorem test_ldsh_T3 :
    after 0x2928 { zeroed with dmem := [(0x004A, 0x34), (0x004B, 0x12)] }
      (fun t => (t.x.r1, t.cc, t.pc)) = some (0x1234, ⟨false, false, false, false⟩, 0x0101) := by
  decide

/-- T8: `ldsh (-6,TA),R1`. -/
theorem test_ldsh_T8 :
    after 0xE92C { zeroed with ta := 0x0106, dmem := [(0x0100, 0xEF), (0x0101, 0xBE)] }
      (fun t => (t.x.r1, t.cc, t.pc)) = some (0xBEEF, ⟨false, false, false, false⟩, 0x0101) := by
  decide

/-- T16: `ldsh (R2,SP),R1`. -/
theorem test_ldsh_T16 :
    after 0x142C { zeroed with x := { zeroed.x with r2 := 0xFFFF }, sp := 0x0100, dmem := [(0x00FE, 0x11), (0x00FF,
      0x11)] }
      (fun t => (t.x.r1, t.cc, t.pc)) = some (0x1111, ⟨false, false, false, false⟩, 0x0101) := by
  decide

/-- T32: `ldsh (R6)+,R1`. -/
theorem test_ldsh_T32 :
    after 0x462C { zeroed with x := { zeroed.x with r6 := 0x0301 }, dmem := [(0x0300, 0x11), (0x0301, 0x22)] }
      (fun t => (t.x.r1, t.x.r6, t.cc, t.pc)) = some (0x2211, 0x0303, ⟨false, false, false, false⟩, 0x0101) := by
  decide

/-- T24: `ldsh -(R6),R1`. -/
theorem test_ldsh_T24 :
    after 0x4E2C { zeroed with x := { zeroed.x with r6 := 0x0302 }, dmem := [(0x0300, 0x11), (0x0301, 0x22)] }
      (fun t => (t.x.r1, t.x.r6, t.cc, t.pc)) = some (0x2211, 0x0300, ⟨false, false, false, false⟩, 0x0101) := by
  decide

/-- T29: `ldsh (R7)*,R1`. -/
theorem test_ldsh_T29 :
    after 0x572C { zeroed with x := { zeroed.x with r7 := 0x0300 }, au := 0xFFFE, dmem := [(0x0300, 0x11), (0x0301,
      0x22)] }
      (fun t => (t.x.r1, t.x.r7, t.cc, t.pc)) = some (0x2211, 0x02FE, ⟨false, false, false, false⟩, 0x0101) := by
  decide

/-- T34: `ldsh (SP)+,{SA,R2,R3}`. -/
theorem test_ldsh_T34 :
    after 0x8CAC { zeroed with sp := 0x0FFA, dmem := [(0x0FFA, 0x23), (0x0FFB, 0x01), (0x0FFC, 0xAA), (0x0FFD,
      0xAA), (0x0FFE, 0xBB), (0x0FFF, 0xBB)] }
      (fun t => (t.x.r2, t.x.r3, t.sp, t.sa, t.cc, t.pc)) = some (0xAAAA, 0xBBBB, 0x1000, 0x0123, ⟨false, false,
      false, false⟩, 0x0101) := by
  decide

/-- T5: `stbt R1,0x25`. -/
theorem test_stbt_T5 :
    after 0x2930 { zeroed with x := { zeroed.x with r1 := 0xABCD } }
      (fun t => (t.dmem, t.pc)) = some ([(0x0025, 0xCD)], 0x0101) := by
  decide

/-- T11: `stbt R1,(5,R6)`. -/
theorem test_stbt_T11 :
    after 0x2A34 { zeroed with x := { zeroed.x with r1 := 0x12FE, r6 := 0x0200 } }
      (fun t => (t.dmem, t.pc)) = some ([(0x0205, 0xFE)], 0x0101) := by
  decide

/-- T17: `stbt R1,(R2,SP)`. -/
theorem test_stbt_T17 :
    after 0x1434 { zeroed with x := { zeroed.x with r1 := 0x00EE, r2 := 0x0005 }, sp := 0x0100 }
      (fun t => (t.dmem, t.pc)) = some ([(0x0105, 0xEE)], 0x0101) := by
  decide

/-- T21: `stbt R1,(R6)+`. -/
theorem test_stbt_T21 :
    after 0x4634 { zeroed with x := { zeroed.x with r1 := 0x0055, r6 := 0xFFFF } }
      (fun t => (t.x.r6, t.dmem, t.cc, t.pc)) = some (0x0000, [(0xFFFF, 0x55)], ⟨false, false, false, false⟩,
      0x0101) := by
  decide

/-- T25: `stbt R1,-(R6)`. -/
theorem test_stbt_T25 :
    after 0x4E34 { zeroed with x := { zeroed.x with r1 := 0x0055 } }
      (fun t => (t.x.r6, t.dmem, t.cc, t.pc)) = some (0xFFFF, [(0xFFFF, 0x55)], ⟨false, false, false, false⟩,
      0x0101) := by
  decide

/-- T30: `stbt R1,(TA)*`. -/
theorem test_stbt_T30 :
    after 0x5534 { zeroed with x := { zeroed.x with r1 := 0x0099 }, au := 0x0003, ta := 0x0300 }
      (fun t => (t.ta, t.dmem, t.pc)) = some (0x0303, [(0x0300, 0x99)], 0x0101) := by
  decide

/-- T40: `stbt {R0,R1,R4},-(R7)`. -/
theorem test_stbt_T40 :
    after 0xE794 { zeroed with x := { zeroed.x with r0 := 0x1111, r1 := 0x2222, r4 := 0x3333, r7 := 0x0203 } }
      (fun t => (t.x.r7, t.dmem, t.cc, t.pc)) = some (0x0200, [(0x0200, 0x11), (0x0201, 0x22), (0x0202, 0x33)],
      ⟨false, false, false, false⟩, 0x0101) := by
  decide

/-- T6: `stsh R1,0x4A`. -/
theorem test_stsh_T6 :
    after 0x2938 { zeroed with x := { zeroed.x with r1 := 0xABCD } }
      (fun t => (t.dmem, t.pc)) = some ([(0x004A, 0xCD), (0x004B, 0xAB)], 0x0101) := by
  decide

/-- T13: `stsh R1,(2,SP)`. -/
theorem test_stsh_T13 :
    after 0x083C { zeroed with x := { zeroed.x with r1 := 0x5A5A }, sp := 0xFFFE }
      (fun t => (t.dmem, t.pc)) = some ([(0x0000, 0x5A), (0x0001, 0x5A)], 0x0101) := by
  decide

/-- T18: `stsh R1,(R2,SP)`. -/
theorem test_stsh_T18 :
    after 0x143C { zeroed with x := { zeroed.x with r1 := 0xCAFE, r2 := 0x0005 }, sp := 0x0100 }
      (fun t => (t.dmem, t.pc)) = some ([(0x010A, 0xFE), (0x010B, 0xCA)], 0x0101) := by
  decide

/-- T33: `stsh R1,(R6)+`. -/
theorem test_stsh_T33 :
    after 0x463C { zeroed with x := { zeroed.x with r1 := 0xA1B2, r6 := 0x0301 } }
      (fun t => (t.x.r6, t.dmem, t.cc, t.pc)) = some (0x0303, [(0x0300, 0xB2), (0x0301, 0xA1)], ⟨false, false,
      false, false⟩, 0x0101) := by
  decide

/-- T27: `stsh R6,-(R6)`. -/
theorem test_stsh_T27 :
    after 0x4EDC { zeroed with x := { zeroed.x with r6 := 0x0302 } }
      (fun t => (t.x.r6, t.dmem, t.cc, t.pc)) = some (0x0300, [(0x0300, 0x02), (0x0301, 0x03)], ⟨false, false,
      false, false⟩, 0x0101) := by
  decide

/-- T31: `stsh R1,(SP)*`. -/
theorem test_stsh_T31 :
    after 0x543C { zeroed with x := { zeroed.x with r1 := 0x2211 }, au := 0x0040, sp := 0x0300 }
      (fun t => (t.sp, t.dmem, t.pc)) = some (0x0340, [(0x0300, 0x11), (0x0301, 0x22)], 0x0101) := by
  decide

/-- T38: `stsh {SA},-(SP)`. -/
theorem test_stsh_T38 :
    after 0xC41C { zeroed with cs := { zeroed.cs with sel := true }, sp := 0x1000, sa := 0x0201, ira := 0x7777 }
      (fun t => (t.sp, t.dmem, t.pc)) = some (0x0FFE, [(0x0FFE, 0x01), (0x0FFF, 0x02)], 0x0101) := by
  decide

/-- T41: `stsh {R6},-(R6)`. -/
theorem test_stsh_T41 :
    after 0x863C { zeroed with x := { zeroed.x with r6 := 0x0400 } }
      (fun t => (t.x.r6, t.dmem, t.cc, t.pc)) = some (0x03FE, [(0x03FF, 0x04)], ⟨false, false, false, false⟩,
      0x0101) := by
  decide

/-- T44: `ldsh (0,R6),R6`. -/
theorem test_ldsh_T44 :
    after 0x02CC { zeroed with x := { zeroed.x with r6 := 0x0400 }, dmem := [(0x0400, 0x57), (0x0401, 0x13)] }
      (fun t => (t.x.r6, t.cc, t.pc)) = some (0x1357, ⟨false, false, false, false⟩, 0x0101) := by
  decide

/-- T46: `move R1,R2`. -/
theorem test_move_T46 :
    after 0xC842 { zeroed with x := { zeroed.x with r1 := 0x8001 }, cc := ⟨true, true, true, true⟩ }
      (fun t => (t.x.r2, t.cc, t.pc)) = some (0x8001, ⟨true, true, true, true⟩, 0x0101) := by
  decide

/-- T49: `move -256,R0`. -/
theorem test_move_T49 :
    after 0x0013 zeroed
      (fun t => (t.x.r0, t.cc, t.pc)) = some (0xFF00, ⟨false, false, false, false⟩, 0x0101) := by
  decide

/-- T50: `move 255,R7`. -/
theorem test_move_T50 :
    after 0xFFE3 zeroed
      (fun t => (t.x.r7, t.cc, t.pc)) = some (0x00FF, ⟨false, false, false, false⟩, 0x0101) := by
  decide

/-- T53: `mfsr CS,R1`. -/
theorem test_mfsr_T53 :
    after 0xCB2A stateM
      (fun t => (t.x.r1, t.cc, t.pc)) = some (0x2464, ⟨true, false, true, true⟩, 0x0101) := by
  decide

/-- T59: `mfsr ID,R1`. -/
theorem test_mfsr_T59 :
    after 0xFB2A stateM
      (fun t => (t.x.r1, t.cc, t.pc)) = some (0x5101, ⟨true, false, true, true⟩, 0x0101) := by
  decide

/-- T60: `mfsr SA,R1`. -/
theorem test_mfsr_T60 :
    after 0xF32A { zeroed with cs := { zeroed.cs with sel := true }, sa := 0x0055, ira := 0x0066 }
      (fun t => (t.x.r1, t.cc, t.pc)) = some (0x0066, ⟨false, false, false, false⟩, 0x0101) := by
  decide

/-- T63: `mtsr R1,CS`. -/
theorem test_mtsr_T63 :
    after 0xCB2E { zeroed with x := { zeroed.x with r1 := 0xFFFF } }
      (fun t => (t.cs.ivtp, t.pc)) = some (0x7FF, 0x0101) := by
  decide

/-- T70: `mtsr R1,SA`. -/
theorem test_mtsr_T70 :
    after 0xF32E { zeroed with x := { zeroed.x with r1 := 0x0040 }, cs := { zeroed.cs with sel := true } }
      (fun t => (t.ira, t.pc)) = some (0x0040, 0x0101) := by
  decide

/-- T71: `mtsr R1,CS`. -/
theorem test_mtsr_T71 :
    after 0xCB2E { zeroed with cs := { zeroed.cs with ivtp := 0x7FF, ir := true, ie := true, save := true, sel :=
      true } }
      (fun t => (t.cs.ivtp, t.pc)) = some (0x0, 0x0101) := by
  decide

/-- T62: `mtsr R1,CC`. -/
theorem test_mtsr_T62 :
    after 0xC32E { zeroed with x := { zeroed.x with r1 := 0xFFFF } }
      (fun t => (t.cc, t.pc)) = some (⟨true, true, true, true⟩, 0x0101) := by
  decide

/-- T74: `mtsr 0x7F,CC`. -/
theorem test_mtsr_T74 : after 0xBF9E zeroed (fun t => (t.cc, t.pc)) = some (⟨true, true, true, true⟩, 0x0101) := by
  decide

/-- T75: `mtsr 0x60,CS`. -/
theorem test_mtsr_T75 :
    after 0xA0BE { zeroed with cs := { zeroed.cs with ie := true } }
      (fun t => (t.cs.ivtp, t.pc)) = some (0x3, 0x0101) := by
  decide

/-- T78: `mtsr 128,LC`. -/
theorem test_mtsr_T78 : after 0x805E zeroed (fun t => (t.lc, t.pc)) = some (0x0080, 0x0101) := by
  decide

/-- T82: `mtsr -64,AU`. -/
theorem test_mtsr_T82 : after 0x80FE zeroed (fun t => (t.au, t.pc)) = some (0xFFC0, 0x0101) := by
  decide

/-- T84: `mfdp R1`. -/
theorem test_mfdp_T84 :
    after 0xC322 { zeroed with pins := { Pins.quiet with dbi := 0x1234 } }
      (fun t => (t.x.r1, t.cc, t.pc)) = some (0x1234, ⟨false, false, false, false⟩, 0x0101) := by
  decide

/-- T85: `mtdp R1`. -/
theorem test_mtdp_T85 :
    after 0xC326 { zeroed with x := { zeroed.x with r1 := 0x4321 } }
      (fun t => (t.dbgo, t.pc)) = some (0x4321, 0x0101) := by
  decide

/-- T87: `absl R1,R2`. -/
theorem test_absl_T87 :
    after 0xC84E { zeroed with x := { zeroed.x with r1 := 0x8000 } }
      (fun t => (t.x.r2, t.cc, t.pc)) = some (0x8000, ⟨false, false, false, false⟩, 0x0101) := by
  decide

/-- T92: `adcf R1,R2`. -/
theorem test_adcf_T92 :
    after 0xC946 { zeroed with x := { zeroed.x with r1 := 0x1234 }, cc := ⟨false, true, true, false⟩ }
      (fun t => (t.x.r2, t.cc, t.pc)) = some (0x1234, ⟨false, false, false, false⟩, 0x0101) := by
  decide

/-- T96: `addc R1,R2,R3`. -/
theorem test_addc_T96 :
    after 0x0A6E { zeroed with x := { zeroed.x with r1 := 0xFFFF }, cc := ⟨true, false, false, false⟩ }
      (fun t => t.pc) = some 0x0101 := by
  decide

/-- T98: `addc R1,R2,R3`. -/
theorem test_addc_T98 :
    after 0x0A6E { zeroed with x := { zeroed.x with r1 := 0x7FFF }, cc := ⟨true, false, false, false⟩ }
      (fun t => (t.x.r3, t.cc, t.pc)) = some (0x8000, ⟨false, true, false, true⟩, 0x0101) := by
  decide

/-- T101: `addh 0xFF00,R3`. -/
theorem test_addh_T101 :
    after 0xFF67 { zeroed with x := { zeroed.x with r3 := 0x0134 } }
      (fun t => (t.x.r3, t.cc, t.pc)) = some (0x0034, ⟨false, false, false, false⟩, 0x0101) := by
  decide

/-- T105: `addt R1,R2,R3`. -/
theorem test_addt_T105 :
    after 0x0A66 { zeroed with x := { zeroed.x with r1 := 0x8000, r2 := 0x8000 } }
      (fun t => (t.cc, t.pc)) = some (⟨true, true, true, false⟩, 0x0101) := by
  decide

/-- T109: `addt 256,R1`. -/
theorem test_addt_T109 :
    after 0x002F { zeroed with x := { zeroed.x with r1 := 0xFF00 } }
      (fun t => (t.x.r1, t.cc, t.pc)) = some (0x0000, ⟨true, false, true, false⟩, 0x0101) := by
  decide

/-- T112: `adsp 64,R6`. -/
theorem test_adsp_T112 :
    after 0x805A { zeroed with sp := 0x1000 }
      (fun t => (t.x.r6, t.cc, t.pc)) = some (0x1040, ⟨false, false, false, false⟩, 0x0101) := by
  decide

/-- T116: `clzr R1,R2`. -/
theorem test_clzr_T116 :
    after 0xC856 zeroed
      (fun t => (t.x.r2, t.cc, t.pc)) = some (0x0010, ⟨false, false, false, false⟩, 0x0101) := by
  decide

/-- T120: `clzr R1,R2`. -/
theorem test_clzr_T120 :
    after 0xC856 { zeroed with x := { zeroed.x with r1 := 0x7FFF } }
      (fun t => (t.x.r2, t.cc, t.pc)) = some (0x0001, ⟨false, false, false, false⟩, 0x0101) := by
  decide

/-- T125: `cmpc R1,R2`. -/
theorem test_cmpc_T125 :
    after 0x8A32 { zeroed with x := { zeroed.x with r1 := 0xFFFF }, cc := ⟨true, false, true, false⟩ }
      (fun t => t.pc) = some 0x0101 := by
  decide

/-- T126: `cmpc R1,R2`. -/
theorem test_cmpc_T126 :
    after 0x8A32 { zeroed with x := { zeroed.x with r2 := 0x8000 }, cc := ⟨true, false, true, false⟩ }
      (fun t => (t.cc, t.pc)) = some (⟨false, true, false, false⟩, 0x0101) := by
  decide

/-- T130: `comp R1,R2`. -/
theorem test_comp_T130 :
    after 0x8A12 { zeroed with x := { zeroed.x with r1 := 0x8000, r2 := 0x7FFF } }
      (fun t => (t.cc, t.pc)) = some (⟨true, true, false, true⟩, 0x0101) := by
  decide

/-- T135: `comp -64,R2`. -/
theorem test_comp_T135 :
    after 0x8056 { zeroed with x := { zeroed.x with r2 := 0xFFC0 } }
      (fun t => (t.cc, t.pc)) = some (⟨false, false, true, false⟩, 0x0101) := by
  decide

/-- T140: `comp 255,R2`. -/
theorem test_comp_T140 :
    after 0xFF5F { zeroed with x := { zeroed.x with r2 := 0x8000 } }
      (fun t => (t.cc, t.pc)) = some (⟨false, true, false, false⟩, 0x0101) := by
  decide

/-- T141: `cpcf R1`. -/
theorem test_cpcf_T141 :
    after 0xC90A { zeroed with cc := ⟨true, false, true, false⟩ }
      (fun t => (t.cc, t.pc)) = some (⟨true, false, false, true⟩, 0x0101) := by
  decide

/-- T143: `cpcf R1`. -/
theorem test_cpcf_T143 :
    after 0xC90A { zeroed with x := { zeroed.x with r1 := 0x8000 }, cc := ⟨true, false, false, false⟩ }
      (fun t => (t.cc, t.pc)) = some (⟨false, true, false, false⟩, 0x0101) := by
  decide

/-- T148: `negt R1,R2`. -/
theorem test_negt_T148 :
    after 0xC84A { zeroed with x := { zeroed.x with r1 := 0x8000 } }
      (fun t => (t.x.r2, t.cc, t.pc)) = some (0x8000, ⟨false, false, false, false⟩, 0x0101) := by
  decide

/-- T151: `sbcf R1,R2`. -/
theorem test_sbcf_T151 :
    after 0xC942 { zeroed with x := { zeroed.x with r1 := 0x8000 }, cc := ⟨true, false, true, false⟩ }
      (fun t => (t.x.r2, t.cc, t.pc)) = some (0x7FFF, ⟨false, true, false, false⟩, 0x0101) := by
  decide

/-- T158: `subc R1,R2,R3`. -/
theorem test_subc_T158 :
    after 0x0A6A { zeroed with x := { zeroed.x with r1 := 0xFFFF, r2 := 0x7FFF }, cc := ⟨true, false, false, false⟩
      }
      (fun t => (t.x.r3, t.cc, t.pc)) = some (0x7FFF, ⟨true, false, false, false⟩, 0x0101) := by
  decide

/-- T155: `subc R1,R2,R3`. -/
theorem test_subc_T155 :
    after 0x0A6A { zeroed with cc := ⟨true, false, true, false⟩ }
      (fun t => (t.x.r3, t.cc, t.pc)) = some (0xFFFF, ⟨true, false, false, true⟩, 0x0101) := by
  decide

/-- T160: `subf R1,R2,R3`. -/
theorem test_subf_T160 :
    after 0x0A62 { zeroed with x := { zeroed.x with r1 := 0x0001, r2 := 0x8000 } }
      (fun t => (t.x.r3, t.cc, t.pc)) = some (0x7FFF, ⟨false, true, false, false⟩, 0x0101) := by
  decide

/-- T166: `subf 255,R1`. -/
theorem test_subf_T166 :
    after 0xFF2B { zeroed with x := { zeroed.x with r1 := 0x80FE } }
      (fun t => (t.x.r1, t.cc, t.pc)) = some (0x7FFF, ⟨false, true, false, false⟩, 0x0101) := by
  decide

/-- T168: `sxbt R1,R2`. -/
theorem test_sxbt_T168 :
    after 0xC85A { zeroed with x := { zeroed.x with r1 := 0xFF7F }, cc := ⟨true, true, true, true⟩ }
      (fun t => (t.x.r2, t.cc, t.pc)) = some (0x007F, ⟨true, true, true, true⟩, 0x0101) := by
  decide

/-- T171: `sxsh R1,R2`. -/
theorem test_sxsh_T171 :
    after 0xC85E { zeroed with x := { zeroed.x with r1 := 0x8001 } }
      (fun t => (t.x.r2, t.cc, t.pc)) = some (0xFFFF, ⟨false, false, false, false⟩, 0x0101) := by
  decide

/-- T178: `andb R1,R2,R3`. -/
theorem test_andb_T178 :
    after 0x0A76 { zeroed with x := { zeroed.x with r1 := 0x5555, r2 := 0xAAAA }, cc := ⟨true, false, false, false⟩
      }
      (fun t => (t.cc, t.pc)) = some (⟨false, true, true, false⟩, 0x0101) := by
  decide

/-- T176: `andb R1,R2,R3`. -/
theorem test_andb_T176 :
    after 0x0A76 { zeroed with x := { zeroed.x with r1 := 0x0001, r2 := 0xFFFF }, cc := ⟨true, false, false, false⟩
      }
      (fun t => (t.x.r3, t.cc, t.pc)) = some (0x0001, ⟨true, false, false, false⟩, 0x0101) := by
  decide

/-- T181: `andb 0xFF,R3`. -/
theorem test_andb_T181 :
    after 0xFF77 { zeroed with x := { zeroed.x with r3 := 0xFF80 } }
      (fun t => (t.x.r3, t.cc, t.pc)) = some (0x0080, ⟨true, true, false, false⟩, 0x0101) := by
  decide

/-- T183: `invt R1,R2`. -/
theorem test_invt_T183 :
    after 0xC852 { zeroed with x := { zeroed.x with r1 := 0x00FF }, cc := ⟨true, true, true, true⟩ }
      (fun t => (t.x.r2, t.cc, t.pc)) = some (0xFF00, ⟨true, true, true, true⟩, 0x0101) := by
  decide

/-- T185: `iorb R1,R2,R3`. -/
theorem test_iorb_T185 :
    after 0x0A7A { zeroed with x := { zeroed.x with r1 := 0x00F0, r2 := 0x0F00 }, cc := ⟨true, false, true, false⟩ }
      (fun t => (t.x.r3, t.cc, t.pc)) = some (0x0FF0, ⟨true, false, true, false⟩, 0x0101) := by
  decide

/-- T186: `iorb 0x0F,R3`. -/
theorem test_iorb_T186 :
    after 0x0F7B { zeroed with x := { zeroed.x with r3 := 0x1230 } }
      (fun t => (t.x.r3, t.cc, t.pc)) = some (0x123F, ⟨false, false, false, false⟩, 0x0101) := by
  decide

/-- T187: `xorb R1,R2,R3`. -/
theorem test_xorb_T187 :
    after 0x0A7E { zeroed with x := { zeroed.x with r1 := 0xFFFF, r2 := 0x1234 }, cc := ⟨false, true, false, true⟩ }
      (fun t => (t.x.r3, t.cc, t.pc)) = some (0xEDCB, ⟨false, true, false, true⟩, 0x0101) := by
  decide

/-- T191: `shlf 15,R3`. -/
theorem test_shlf_T191 :
    after 0xFE6A { zeroed with x := { zeroed.x with r3 := 0x8421 }, cc := ⟨true, true, true, true⟩ }
      (fun t => (t.x.r3, t.cc, t.pc)) = some (0xC210, ⟨true, true, true, true⟩, 0x0101) := by
  decide

/-- T192: `shlf R1,R2,R3`. -/
theorem test_shlf_T192 :
    after 0x4A6A { zeroed with x := { zeroed.x with r1 := 0xFFF4, r2 := 0x8421 } }
      (fun t => (t.x.r3, t.cc, t.pc)) = some (0x4218, ⟨false, false, false, false⟩, 0x0101) := by
  decide

/-- T195: `shlz 4,R3`. -/
theorem test_shlz_T195 :
    after 0xD262 { zeroed with x := { zeroed.x with r3 := 0x8421 }, cc := ⟨true, true, true, true⟩ }
      (fun t => (t.x.r3, t.cc, t.pc)) = some (0x4210, ⟨true, true, true, true⟩, 0x0101) := by
  decide

/-- T197: `shlz R1,R2,R3`. -/
theorem test_shlz_T197 :
    after 0x4A62 { zeroed with x := { zeroed.x with r1 := 0xFFF4, r2 := 0x8421 } }
      (fun t => (t.x.r3, t.cc, t.pc)) = some (0x4210, ⟨false, false, false, false⟩, 0x0101) := by
  decide

/-- T201: `shrs 15,R3`. -/
theorem test_shrs_T201 :
    after 0xFE6E { zeroed with x := { zeroed.x with r3 := 0x8421 }, cc := ⟨true, true, true, true⟩ }
      (fun t => (t.x.r3, t.cc, t.pc)) = some (0xFFFF, ⟨true, true, true, true⟩, 0x0101) := by
  decide

/-- T202: `shrs R1,R2,R3`. -/
theorem test_shrs_T202 :
    after 0x4A6E { zeroed with x := { zeroed.x with r1 := 0xFFF4, r2 := 0x8421 } }
      (fun t => (t.x.r3, t.cc, t.pc)) = some (0xF842, ⟨false, false, false, false⟩, 0x0101) := by
  decide

/-- T205: `shru 4,R3`. -/
theorem test_shru_T205 :
    after 0xD266 { zeroed with x := { zeroed.x with r3 := 0x8421 }, cc := ⟨true, true, true, true⟩ }
      (fun t => (t.x.r3, t.cc, t.pc)) = some (0x0842, ⟨true, true, true, true⟩, 0x0101) := by
  decide

/-- T207: `shru R1,R2,R3`. -/
theorem test_shru_T207 :
    after 0x4A66 { zeroed with x := { zeroed.x with r1 := 0xFFF4, r2 := 0x8421 } }
      (fun t => (t.x.r3, t.cc, t.pc)) = some (0x0842, ⟨false, false, false, false⟩, 0x0101) := by
  decide

/-- T211: `btcl 5,R3`. -/
theorem test_btcl_T211 :
    after 0xD672 { zeroed with x := { zeroed.x with r3 := 0x00FF }, cc := ⟨true, true, true, true⟩ }
      (fun t => (t.x.r3, t.cc, t.pc)) = some (0x00DF, ⟨true, true, true, true⟩, 0x0101) := by
  decide

/-- T213: `btcl R1,R2,R3`. -/
theorem test_btcl_T213 :
    after 0x4A72 { zeroed with x := { zeroed.x with r1 := 0x0028, r2 := 0x0F00 } }
      (fun t => (t.x.r3, t.cc, t.pc)) = some (0x0E00, ⟨false, false, false, false⟩, 0x0101) := by
  decide

/-- T216: `btst 15,R3`. -/
theorem test_btst_T216 :
    after 0xFE7A { zeroed with x := { zeroed.x with r3 := 0x00FF }, cc := ⟨true, true, true, true⟩ }
      (fun t => (t.x.r3, t.cc, t.pc)) = some (0x80FF, ⟨true, true, true, true⟩, 0x0101) := by
  decide

/-- T217: `btst R1,R2,R3`. -/
theorem test_btst_T217 :
    after 0x4A7A { zeroed with x := { zeroed.x with r1 := 0x0028, r2 := 0x0F00 } }
      (fun t => (t.x.r3, t.cc, t.pc)) = some (0x0F00, ⟨false, false, false, false⟩, 0x0101) := by
  decide

/-- T220: `bttg 15,R3`. -/
theorem test_bttg_T220 :
    after 0xFE7E { zeroed with x := { zeroed.x with r3 := 0x00FF }, cc := ⟨true, true, true, true⟩ }
      (fun t => (t.x.r3, t.cc, t.pc)) = some (0x80FF, ⟨true, true, true, true⟩, 0x0101) := by
  decide

/-- T221: `bttg R1,R2,R3`. -/
theorem test_bttg_T221 :
    after 0x4A7E { zeroed with x := { zeroed.x with r1 := 0x0028, r2 := 0x0F00 } }
      (fun t => (t.x.r3, t.cc, t.pc)) = some (0x0E00, ⟨false, false, false, false⟩, 0x0101) := by
  decide

/-- T224: `btts 15,R3`. -/
theorem test_btts_T224 :
    after 0xFE76 { zeroed with x := { zeroed.x with r3 := 0x8000 }, cc := ⟨true, true, false, false⟩ }
      (fun t => (t.cc, t.pc)) = some (⟨false, false, false, true⟩, 0x0101) := by
  decide

/-- T226: `btts R1,R2`. -/
theorem test_btts_T226 :
    after 0x4A16 { zeroed with x := { zeroed.x with r1 := 0x001F, r2 := 0x8000 } }
      (fun t => (t.cc, t.pc)) = some (⟨false, false, false, true⟩, 0x0101) := by
  decide

/-- T231: `mlhs R1,R2,R3`. -/
theorem test_mlhs_T231 :
    after 0x8A66 { zeroed with x := { zeroed.x with r1 := 0x8000, r2 := 0x7FFF }, cc := ⟨true, true, true, true⟩ }
      (fun t => (t.x.r3, t.cc, t.pc)) = some (0xC000, ⟨true, true, true, true⟩, 0x0101) := by
  decide

/-- T235: `mlhu R1,R2,R3`. -/
theorem test_mlhu_T235 :
    after 0x8A62 { zeroed with x := { zeroed.x with r1 := 0xFFFF, r2 := 0xFFFF } }
      (fun t => (t.x.r3, t.cc, t.pc)) = some (0xFFFE, ⟨false, false, false, false⟩, 0x0101) := by
  decide

/-- T239: `mult R1,R2,R3`. -/
theorem test_mult_T239 :
    after 0x0A72 { zeroed with x := { zeroed.x with r1 := 0x1234, r2 := 0x0010 }, cc := ⟨true, true, true, true⟩ }
      (fun t => (t.x.r3, t.cc, t.pc)) = some (0x2340, ⟨true, true, true, true⟩, 0x0101) := by
  decide

/-- T274: `brzr -128`. -/
theorem test_brzr_T274 :
    after 0x80B5 { zeroed with cc := ⟨false, false, true, false⟩, pc := 0x0010 }
      (fun t => t.pc) = some 0xFF90 := by
  decide

/-- T275: `bral +127`. -/
theorem test_bral_T275 : after 0x7FDD { zeroed with pc := 0xFFF0 } (fun t => t.pc) = some 0x006F := by
  decide

/-- T278: `brlc -2`. -/
theorem test_brlc_T278 :
    after 0xFEFD { zeroed with lc := 0x0001 }
      (fun t => (t.lc, t.pc)) = some (0x0000, 0x0101) := by
  decide

/-- T279: `brlc -2`. -/
theorem test_brlc_T279 : after 0xFEFD zeroed (fun t => (t.lc, t.pc)) = some (0xFFFF, 0x00FE) := by
  decide

/-- T280: `jump`. -/
theorem test_jump_T280 : after 0x000D { zeroed with ta := 0x4321, iah := 0x5 } (fun t => t.pc) = some 0x4321 := by
  decide

/-- T282: `jump 0x123`. -/
theorem test_jump_T282 : after 0x1231 { zeroed with iah := 0xa } (fun t => (t.iah, t.pc)) = some (0x0, 0xA123) := by
  decide

/-- T285: `jpsr 0x123`. -/
theorem test_jpsr_T285 :
    after 0x1239 { zeroed with iah := 0x2, pc := 0xFFFF }
      (fun t => (t.iah, t.pc)) = some (0x0, 0x2123) := by
  decide

/-- T286: `jpsr`. -/
theorem test_jpsr_T286 :
    after 0x002D { zeroed with cs := { zeroed.cs with sel := true }, ta := 0x8000, ira := 0x7777, pc := 0x0200 }
      (fun t => (t.sa, t.pc)) = some (0x0201, 0x8000) := by
  decide

/-- T287: `rtsr`. -/
theorem test_rtsr_T287 : after 0x004D { zeroed with sa := 0x0201 } (fun t => t.pc) = some 0x0201 := by
  decide

/-- T288: `rtir`. -/
theorem test_rtir_T288 :
    after 0x006D { zeroed with cc := ⟨true, false, true, false⟩, ccs := ⟨false, true, false, true⟩, cs := {
      zeroed.cs with ir := true, ie := true }, ira := 0x0456, iahs := 0x3 }
      (fun t => (t.cc, t.cs.ir, t.iah, t.pc)) = some (⟨false, true, false, true⟩, false, 0x3, 0x0456) := by
  decide

/-- T290: `siah 0xA`. -/
theorem test_siah_T290 : after 0x0145 zeroed (fun t => (t.iah, t.pc)) = some (0xa, 0x0101) := by
  decide

/-- T291: `siah 0`. -/
theorem test_siah_T291 : after 0x0005 { zeroed with iah := 0xf } (fun t => (t.iah, t.pc)) = some (0x0, 0x0101) := by
  decide

/-- T292: `stie`. -/
theorem test_stie_T292 : after 0x010D zeroed (fun t => (t.cs.ie, t.pc)) = some (true, 0x0101) := by
  decide

/-- T293: `clie`. -/
theorem test_clie_T293 :
    after 0x012D { zeroed with cs := { zeroed.cs with ie := true } }
      (fun t => (t.cs.ie, t.pc)) = some (false, 0x0101) := by
  decide

/-- T294: `scie`. -/
theorem test_scie_T294 :
    after 0x016D { zeroed with cs := { zeroed.cs with ie := true } }
      (fun t => (t.cs.ie, t.cs.save, t.pc)) = some (false, true, 0x0101) := by
  decide

/-- T295: `scie`. -/
theorem test_scie_T295 :
    after 0x016D { zeroed with cs := { zeroed.cs with save := true } }
      (fun t => (t.cs.save, t.pc)) = some (false, 0x0101) := by
  decide

/-- T296: `rsie`. -/
theorem test_rsie_T296 :
    after 0x014D { zeroed with cs := { zeroed.cs with save := true } }
      (fun t => (t.cs.ie, t.pc)) = some (true, 0x0101) := by
  decide

/-- T297: `rsie`. -/
theorem test_rsie_T297 :
    after 0x014D { zeroed with cs := { zeroed.cs with ie := true } }
      (fun t => (t.cs.ie, t.pc)) = some (false, 0x0101) := by
  decide

/-- T298: `stas`. -/
theorem test_stas_T298 : after 0x018D zeroed (fun t => (t.cs.sel, t.pc)) = some (true, 0x0101) := by
  decide

/-- T299: `clas`. -/
theorem test_clas_T299 :
    after 0x01AD { zeroed with cs := { zeroed.cs with sel := true } }
      (fun t => (t.cs.sel, t.pc)) = some (false, 0x0101) := by
  decide

/-- T300: `stop`. -/
theorem test_stop_T300 : after 0x008D zeroed (fun t => (t.run, t.pc)) = some (.stopped, 0x0101) := by
  decide

/-- T301: `svpc`. -/
theorem test_svpc_T301 : after 0x00CD zeroed (fun t => (t.dbgo, t.pc)) = some (0x0100, 0x0101) := by
  decide

/-- T302: `rspc`. -/
theorem test_rspc_T302 :
    after 0x00ED { zeroed with pins := { Pins.quiet with dbi := 0x0300 } }
      (fun t => t.pc) = some 0x0300 := by
  decide

/-- T244 to T272: each branch, taken and not taken. -/
theorem test_branches : ∀ b ∈ ([
    (0x0515, ⟨false, false, false, false⟩, 0x0105), (0x0515, ⟨true, true, true, true⟩, 0x0101),
    (0x0535, ⟨true, false, false, false⟩, 0x0105), (0x0535, ⟨false, true, true, true⟩, 0x0101),
    (0x0555, ⟨false, false, false, false⟩, 0x0105), (0x0555, ⟨true, true, true, true⟩, 0x0101),
    (0x0575, ⟨false, true, false, false⟩, 0x0105), (0x0575, ⟨true, false, true, true⟩, 0x0101),
    (0x0595, ⟨false, false, false, false⟩, 0x0105), (0x0595, ⟨true, true, true, true⟩, 0x0101),
    (0x05B5, ⟨false, false, true, false⟩, 0x0105), (0x05B5, ⟨true, true, false, true⟩, 0x0101),
    (0x05D5, ⟨false, false, false, false⟩, 0x0105), (0x05D5, ⟨true, true, true, true⟩, 0x0101),
    (0x05F5, ⟨false, false, false, true⟩, 0x0105), (0x05F5, ⟨true, true, true, false⟩, 0x0101),
    (0x051D, ⟨false, false, true, false⟩, 0x0105), (0x051D, ⟨false, true, false, true⟩, 0x0101),
    (0x053D, ⟨false, false, false, false⟩, 0x0105), (0x053D, ⟨true, true, true, true⟩, 0x0101),
    (0x055D, ⟨false, false, false, true⟩, 0x0105), (0x055D, ⟨true, true, true, true⟩, 0x0101),
    (0x057D, ⟨false, false, false, false⟩, 0x0105), (0x057D, ⟨true, true, true, false⟩, 0x0101),
    (0x059D, ⟨false, false, false, true⟩, 0x0105), (0x059D, ⟨true, true, false, true⟩, 0x0101),
    (0x05BD, ⟨false, false, false, false⟩, 0x0105), (0x05BD, ⟨true, true, true, true⟩, 0x0101),
    (0x05DD, ⟨false, false, false, false⟩, 0x0105)] : List (Word × Flags × Word)),
    after b.1.toNat { zeroed with cc := b.2.1 } (fun t => t.pc) = some b.2.2 := by
  decide

/-- T303 to T321: words that are no instruction. -/
theorem test_rejected : ∀ p ∈ ([
    (0x5E24, .unassignedOpcode), (0x7C0C, .unassignedOpcode), (0x8404, .emptyRgs),
    (0x871C, .emptyRgs), (0x0205, .unassignedOpcode), (0x00AD, .unassignedOpcode),
    (0x01CD, .unassignedOpcode), (0x01ED, .unassignedOpcode), (0x020D, .unassignedOpcode),
    (0x8A6A, .unassignedOpcode), (0x8A6E, .unassignedOpcode), (0x8A52, .unassignedOpcode),
    (0x4A36, .unassignedOpcode), (0xC92A, .unassignedOpcode), (0xCB22, .unassignedOpcode),
    (0xC846, .unassignedOpcode), (0xC94E, .unassignedOpcode), (0xCC42, .unassignedOpcode),
    (0xCB52, .unassignedOpcode)] : List (Word × DecodeReject)),
    decode .default p.1 = .error p.2 := by
  decide

/-- T42, T43, T323 to T325: a load into its own updated address register. -/
theorem test_load_into_address_register :
    ([0xC60C, 0x46CC, 0x854C, 0x57E4, 0x4FEC].all fun w =>
      refusal w zeroed == some .loadIntoAddressRegister) = true := by
  decide

/-- T289: `rtir` with CS.IR = 0. -/
theorem test_rtir_outside : refusal 0x006D zeroed = some .rtirOutsideInterrupt := by
  decide

/-! ## One step: what happens at a boundary -/

/-- What one step leaves. -/
def stepped {α : Type} (s : State) (f : State → α) : Option α :=
  match step s with
  | .next t => some (f t)
  | _ => none

/-- Scenario I1 before the acknowledge: IRQ with IRN = 3, the table at byte 0x0200. -/
def requested : State :=
  { zeroed with
    pc := 0x0124
    cc := ⟨true, false, true, false⟩
    iah := 0x7
    cs := { zeroed.cs with ivtp := 0x010, ie := true }
    dmem := [(0x0207, 0x04)]
    pins := { Pins.quiet with irq := true, irn := 3 } }

/-- I1, step 3. -/
theorem test_interrupt_entry :
    stepped requested (fun t => (t.ira, t.ccs, t.iah, t.iahs, t.cs.ir, t.pc)) =
      some (0x0124, ⟨true, false, true, false⟩, 0x0, 0x7, true, 0x0400) ∧
    stepped requested (fun t => (t.cs.ie, t.iack)) = some (true, true) := by
  decide

/-- I3, step 6: nothing is acknowledged while CS.IR = 1; the request stays. -/
theorem test_interrupt_held :
    stepped ({ requested with cs := { requested.cs with ir := true } }) (fun t => (t.iack, t.pc, t.pins.irq)) =
      some (false, 0x0125, true) := by
  decide

/-- A stop request beats an interrupt (R341). -/
theorem test_stop_before_interrupt :
    stepped { requested with pins := { requested.pins with strq := true } } (fun t => (t.run, t.pc, t.iack)) =
      some (.stopped, 0x0124, false) := by
  decide

/-- R371: the power-up reset starts at the page of RESET_IRN. -/
theorem test_power_up : (State.powerUp { Config.default with resetIrn := 0xA } .zeros).pc = 0xA000 := by
  decide

/-- Z1: reset with IRN = 0xA. -/
theorem test_reset_event :
    stepped { requested with pins := { Pins.quiet with reset := true, irn := 0xA } }
      (fun t => (t.pc, t.cs.ir, t.cs.ie, t.cc, t.iah, t.run)) =
      some (0xA000, true, false, ⟨false, false, false, false⟩, 0x0, .running) := by
  decide

/-- A state of G1 after the stop, with a word injected and a value on DBI. -/
def injecting (op dbi : Word) : State :=
  { zeroed with
    pc := 0x0101
    run := .stopped
    x := { zeroed.x with r1 := 0x4322 }
    pins := { Pins.quiet with debug := .inject op, dbi := dbi } }

/-- G1, step 3: pc stays. -/
theorem test_inject_mtdp : stepped (injecting 0xC326 0) (fun t => (t.dbgo, t.pc, t.run)) =
    some (0x4322, 0x0101, .stopped) := by
  decide

/-- G2, step 11. -/
theorem test_inject_rspc : stepped (injecting 0x00ED 0x0300) (fun t => t.pc) = some 0x0300 := by
  decide

/-- G2, steps 1 and 9. -/
theorem test_inject_transfer : ([0x05DD, 0x006D].all fun w =>
    (match step (injecting w 0) with | .refused r => r == .injectedControlTransfer | _ => false)) = true := by
  decide

/-- G1, step 17. -/
theorem test_resume : stepped { injecting 0 0 with pins := { Pins.quiet with debug := .resume } }
    (fun t => (t.run, t.pc)) = some (.running, 0x0101) := by
  decide

/-- The debug module writes a data byte and, the processor being stopped, an opcode word (R363). -/
theorem test_direct_writes :
    stepped { injecting 0 0 with pins := { Pins.quiet with dataWrites := [(0x40, 0x5A)], codeWrites := [(0x2, 0x012F)] } }
      (fun t => (t.dmem, t.imem)) = some ([(0x40, 0x5A)], [(4, 0x2F), (5, 0x01)]) := by
  decide

/-- A write of the value that an unlisted address reads as removes the entry. -/
theorem test_write_removes : Memory.write [(4, 7), (5, 8), (9, 1)] 5 0 = [(4, 7), (9, 1)] := by
  decide

/-- R76, with a controller that supports misaligned shorts: T32's address. -/
theorem test_misaligned_controller :
    after 0x462C { zeroed with
        cfg := { zeroed.cfg with misaligned := .controller }
        x := { zeroed.x with r6 := 0x0301 }
        dmem := [(0x0301, 0x11), (0x0302, 0x22)] }
      (fun t => (t.x.r1, t.x.r6)) = some (0x2211, 0x0303) := by
  decide

/-- R88: a store through a mapping onto the instruction memory. -/
theorem test_imem_window :
    after 0x2938 { zeroed with
        cfg := { zeroed.cfg with imemWindows := [⟨0x0040, 0x20, 0x100, .lowFirst⟩] }
        x := { zeroed.x with r1 := 0xABCD } }
      (fun t => (t.readCode 0x0085, t.dmem)) = some (0xABCD, []) := by
  decide

/-- D24: the same store through a mapping in the other byte order; the first window that has the address counts. -/
theorem test_imem_window_highFirst :
    after 0x2938 { zeroed with
        cfg := { zeroed.cfg with
          imemWindows := [⟨0x0040, 8, 0x200, .lowFirst⟩, ⟨0x0040, 0x20, 0x100, .highFirst⟩, ⟨0, 0x80, 0, .lowFirst⟩] }
        x := { zeroed.x with r1 := 0xABCD } }
      (fun t => (t.readCode 0x0085, t.dmem)) = some (0xCDAB, []) := by
  decide

/-! ## Witnesses: every statement with hypotheses has a state and operands that meet them -/

/-- A stopped processor at a boundary with this move of the debug module. -/
def stoppedWith (m : DebugMove) : State := { injecting 0 0 with pins := { Pins.quiet with debug := m } }

/-- A processor at its next fetch, with this word there. -/
def fetching (w : Nat) : State := zeroed.withFetchWord 16 w

/-- What a check of each member says of every member. -/
theorem forall_mem_of_all {α : Type} {P : α → Prop} [DecidablePred P] {l : List α}
    (h : (l.all fun c => decide (P c)) = true) : ∀ c ∈ l, P c := by
  simpa using h

/-- The premises of `StepRunsDecoded` on the states. -/
abbrev Undisturbed (s w : State) : Prop :=
  s.hostWrites = w ∧ w.run = .running ∧ w.pins.reset = false ∧ w.pins.strq = false ∧ w.acknowledges = false ∧
    w.pins.breakpoint = false

/-- A processor at its next fetch, with this word there, while a device writes the byte 0x5A to data address 0xFFFF. -/
def fetchingBesideDevice (w : Nat) : State :=
  { fetching w with pins := { Pins.quiet with dataWrites := [(0xFFFF, 0x5A)] } }

theorem witness_DecodeOfEncode : ∃ i : Instr, i.wf = true ∧ decode otherEncoding (encode otherEncoding i) = .ok i :=
  ⟨.stshRgs 0b1000000 .ta, by decide, by decide⟩

theorem witness_EncodeOfDecode : ∃ (e : Encoding) (op : Word) (i : Instr), decode e op = .ok i :=
  ⟨otherEncoding, 0x0A7A, .xorb .r1 .r2 .r3, by decide⟩

theorem witness_StepRunsDecoded_next : ∃ (s w : State) (i : Instr) (t : State), Undisturbed s w ∧
    decode w.cfg.enc (w.readCode w.pc) = .ok i ∧ exec i w = .next t ∧ w.dmem ≠ s.dmem :=
  ⟨fetchingBesideDevice 0x012F, _, .addtConst 1 .r1, _, ⟨rfl, by decide⟩, by decide, rfl, by decide⟩

theorem witness_StepRunsDecoded_refused : ∃ (s w : State) (i : Instr) (r : Refusal), Undisturbed s w ∧
    decode w.cfg.enc (w.readCode w.pc) = .ok i ∧ exec i w = .refused r :=
  ⟨fetching 0x006D, _, .rtir, _, ⟨rfl, by decide⟩, by decide, rfl⟩

theorem witness_StepRunsDecoded_words : ∃ s w s' w' : State, Undisturbed s w ∧ Undisturbed s' w' ∧
    decode w.cfg.enc (w.readCode w.pc) = .error .unassignedOpcode ∧
    decode w'.cfg.enc (w'.readCode w'.pc) = .error .emptyRgs :=
  ⟨fetching 0x5E24, _, fetching 0x8404, _, ⟨rfl, by decide⟩, ⟨rfl, by decide⟩, by decide, by decide⟩

theorem witness_DebugModuleStops_request : ∃ s w : State, s.hostWrites = w ∧ w.run = .running ∧
    w.pins.reset = false ∧ w.pins.strq = true ∧ w.acknowledges = true :=
  ⟨{ requested with pins := { requested.pins with strq := true } }, _, rfl, by decide, by decide, by decide, by decide⟩

theorem witness_DebugModuleStops_breakpoint : ∃ s w : State, s.hostWrites = w ∧ w.run = .running ∧
    w.pins.reset = false ∧ w.pins.strq = false ∧ w.acknowledges = false ∧ w.pins.breakpoint = true :=
  ⟨{ zeroed with pins := { Pins.quiet with breakpoint := true } }, _, rfl, by decide, by decide, by decide, by decide,
    by decide⟩

theorem witness_InterruptEntry : ∃ (s w : State) (base : Word), s.hostWrites = w ∧ w.run = .running ∧
    w.pins.reset = false ∧ w.pins.strq = false ∧ w.pins.irq = true ∧ w.cs.ie = true ∧ w.cs.ir = false ∧
    base = BitVec.ofNat 16 (32 * w.cs.ivtp.toNat + 2 * w.pins.irn.toNat) ∧ base = 0xFFFE :=
  ⟨{ requested with
      cs := { requested.cs with ivtp := 0x7FF }
      pins := { requested.pins with irn := 15 } }, _, _, rfl, by decide, by decide, by decide, by decide, by decide,
    by decide, rfl, by decide⟩

theorem witness_AcknowledgeExactly : ∃ s u s' u' : State, step s = .next u ∧ u.iack = true ∧
    step s' = .next u' ∧ u'.iack = false :=
  ⟨requested, _, fetching 0x012F, _, rfl, by decide, rfl, by decide⟩

theorem witness_ResetEvent : ∃ s w s' w' : State, s.hostWrites = w ∧ w.pins.reset = true ∧ w.run = .running ∧
    s'.hostWrites = w' ∧ w'.pins.reset = true ∧ w'.run = .stopped :=
  ⟨{ requested with pins := { requested.pins with reset := true } }, _,
    { injecting 0 0 with pins := { Pins.quiet with reset := true } }, _, rfl, by decide, by decide, rfl, by decide,
    by decide⟩

theorem witness_StoppedWaitsAndResumes : ∃ s w s' w' : State,
    s.hostWrites = w ∧ w.run = .stopped ∧ w.pins.reset = false ∧ w.pins.debug = .wait ∧
    s'.hostWrites = w' ∧ w'.run = .stopped ∧ w'.pins.reset = false ∧ w'.pins.debug = .resume :=
  ⟨stoppedWith .wait, _, stoppedWith .resume, _, rfl, by decide, by decide, by decide, rfl, by decide, by decide,
    by decide⟩

theorem witness_InjectionRuns_next : ∃ (s w : State) (op : Word) (i : Instr) (t : State), s.hostWrites = w ∧
    w.run = .stopped ∧ w.pins.reset = false ∧ w.pins.debug = .inject op ∧ decode w.cfg.enc op = .ok i ∧
    exec i w = .next t :=
  ⟨injecting 0xC326 0, _, 0xC326, .mtdp .r1, _, rfl, by decide, by decide, by decide, by decide, rfl⟩

theorem witness_InjectionRuns_refused : ∃ (s w : State) (op : Word) (i : Instr) (r : Refusal), s.hostWrites = w ∧
    w.run = .stopped ∧ w.pins.reset = false ∧ w.pins.debug = .inject op ∧ decode w.cfg.enc op = .ok i ∧
    exec i w = .refused r :=
  ⟨injecting 0x004D 0, _, 0x004D, .rtsr, _, rfl, by decide, by decide, by decide, by decide, rfl⟩

theorem witness_InjectionRuns_words : ∃ (s s' : State) (op op' : Word),
    s.hostWrites.run = .stopped ∧ s.hostWrites.pins.reset = false ∧ s.hostWrites.pins.debug = .inject op ∧
    decode s.hostWrites.cfg.enc op = .error .unassignedOpcode ∧
    s'.hostWrites.run = .stopped ∧ s'.hostWrites.pins.reset = false ∧ s'.hostWrites.pins.debug = .inject op' ∧
    decode s'.hostWrites.cfg.enc op' = .error .emptyRgs :=
  ⟨injecting 0x00AD 0, injecting 0x8404 0, 0x00AD, 0x8404, by decide, by decide, by decide, by decide, by decide,
    by decide, by decide, by decide⟩

theorem witness_HostWritesMemoryOnly : ∃ (s w : State) (l l' : List (Word × Byte)) (a : Word) (b : Byte),
    s.hostWrites = w ∧ s.memWf = true ∧ s.run = .running ∧ s.pins.dataWrites = l ++ (a, b) :: l' ∧ l ≠ [] ∧ l' ≠ [] ∧
    ∀ c ∈ l', ¬ s.sameByte a c.1 :=
  ⟨{ requested with pins := { Pins.quiet with dataWrites := [(0xFFFF, 1), (0xFFFF, 2), (0, 3)] } }, _,
    [(0xFFFF, 1)], [(0, 3)], 0xFFFF, 2, rfl, by decide, by decide, rfl, by decide, by decide,
    forall_mem_of_all (by decide)⟩

/-- A stopped processor with the instruction memory mapped from data address 0 on, and writes of both kinds listed: word
0xFFFF twice, byte 0x9000 twice, and byte 4, which is the low byte of word 2. -/
def written : State :=
  { injecting 0 0 with
    cfg := { zeroed.cfg with imemWindows := [⟨0, 0x100, 0, .lowFirst⟩] }
    pins := { Pins.quiet with
      dataWrites := [(0x9000, 1), (0x9000, 2), (4, 3)]
      codeWrites := [(0xFFFF, 0x0001), (0xFFFF, 0x0002), (0x0003, 0x0004)] } }

theorem witness_HostWritesMemoryOnly_stopped : ∃ (w : State) (l l' : List (Word × Word)) (m m' n : List (Word × Byte)),
    written.hostWrites = w ∧ written.memWf = true ∧ written.run = .stopped ∧
    written.pins.codeWrites = l ++ (0xFFFF, 0x0002) :: l' ∧ l ≠ [] ∧ l' ≠ [] ∧ (∀ c ∈ l', c.1 ≠ 0xFFFF) ∧
    written.pins.dataWrites = m ++ (0x9000, 2) :: m' ∧ m ≠ [] ∧ (∀ c ∈ m', ¬ written.sameByte 0x9000 c.1) ∧
    (∀ c ∈ written.pins.codeWrites, ¬ written.inWord 0x9000 c.1) ∧
    written.pins.dataWrites = n ++ [(4, 3)] ∧ (∀ c ∈ written.pins.codeWrites, ¬ written.inWord 4 c.1) :=
  ⟨_, [(0xFFFF, 0x0001)], [(0x0003, 0x0004)], [(0x9000, 1)], [(4, 3)], [(0x9000, 1), (0x9000, 2)],
    rfl, by decide, by decide, rfl, by decide, by decide, forall_mem_of_all (by decide), rfl, by decide,
    forall_mem_of_all (by decide), forall_mem_of_all (by decide), rfl, forall_mem_of_all (by decide)⟩

/-- Bytes and words that the listed writes do not reach: byte 8, a byte of word 4, and word 5; byte 6 is a byte of the
listed word 3, and word 2 has the listed byte 4. -/
theorem witness_HostWritesMemoryOnly_others :
    (∀ c ∈ written.pins.dataWrites, ¬ written.sameByte 8 c.1) ∧
    (∀ c ∈ written.pins.codeWrites, ¬ written.inWord 8 c.1) ∧ written.inWord 8 4 ∧
    (∀ c ∈ written.pins.codeWrites, c.1 ≠ 5) ∧ (∀ c ∈ written.pins.dataWrites, ¬ written.inWord c.1 5) ∧
    written.inWord 6 3 ∧ written.inWord 4 2 :=
  ⟨forall_mem_of_all (by decide), forall_mem_of_all (by decide), by decide, forall_mem_of_all (by decide),
    forall_mem_of_all (by decide), by decide, by decide⟩

theorem witness_CanonicalMemory : ∃ s t : State, s.memWf = true ∧ s.dmem ≠ [] ∧ step s = .next t :=
  ⟨requested, _, by decide, by decide, rfl⟩

theorem witness_InterruptStateChanges : ∃ s t s' t' : State,
    step s = .next t ∧ t.cs.ir = true ∧ s.cs.ir = false ∧ step s' = .next t' ∧ t'.cs.ir = false ∧ s'.cs.ir = true :=
  ⟨requested, _, State.reset.withFetchWord 16 0x006D, _, rfl, by decide, by decide, rfl, by decide, by decide⟩

theorem witness_RefusedExactly : ∃ s s' : State,
    refusalOf (.ldbtRgs .r6 0) s = some .emptyRgs ∧ refusalOf (.ldshPreDec .r7 .r7) s = some .loadIntoAddressRegister ∧
    refusalOf .rtir s = some .rtirOutsideInterrupt ∧ refusalOf .rtir s' = some .injectedControlTransfer ∧
    refusalOf (.bral 5) s' = some .injectedControlTransfer ∧ refusalOf (.bral 5) s = none ∧
    refusalOf .rtir State.reset = none :=
  ⟨zeroed, stoppedWith .wait, by decide, by decide, by decide, by decide, by decide, by decide, by decide⟩

theorem witness_InstructionFrame : ∃ (i : Instr) (s t : State), exec i s = .next t :=
  ⟨.ldshPostInc .r6 .r1, zeroed, _, rfl⟩

theorem witness_OnlyStoresWriteMemory : ∃ (i : Instr) (s t : State), exec i s = .next t ∧ isStore i = false ∧
    s.cfg.imemWindows = [] :=
  ⟨.addt .r1 .r2 .r3, zeroed, _, rfl, by decide, by decide⟩

theorem witness_SequentialExecution : ∃ (i : Instr) (s t s' t' : State), i ≠ .rspc ∧ isTransfer i = false ∧
    exec i s = .next t ∧ s.run = .running ∧ s.pc = 0xFFFF ∧ exec i s' = .next t' ∧ s'.run = .stopped :=
  ⟨.addt .r1 .r2 .r3, { zeroed with pc := 0xFFFF }, _, stoppedWith .wait, _, by decide, by decide, rfl, by decide,
    by decide, rfl, by decide⟩

theorem witness_ReadOperand : ∃ (s s' : State) (a b : Word), a.toNat % 2 = 0 ∧ b.toNat % 2 = 1 ∧ a = 0xFFFE ∧
    b = 0xFFFF ∧ s.cfg.misaligned = .ignoreLsb ∧ s'.cfg.misaligned = .controller :=
  ⟨zeroed, { zeroed with cfg := { zeroed.cfg with misaligned := .controller } }, 0xFFFE, 0xFFFF, by decide, by decide,
    by decide, by decide, by decide, by decide⟩

theorem witness_ReadOperand_mapped : ∃ (a b w : Word), written.aliased a = some (2 * w.toNat) ∧
    written.aliased b = some (2 * w.toNat + 1) :=
  ⟨6, 7, 3, by decide, by decide⟩

theorem witness_LoadRegister : loadsItsAddress (loadForm .short (.postInc .r7) .r6) = false ∧
    loadsItsAddress (loadForm .byte (.offset 0 .r6) .r6) = false := by
  decide

/-- A platform that maps two data addresses to each byte of the first eight opcode words, in both byte orders. -/
def mirrored : State :=
  { requested with
    cfg := { zeroed.cfg with imemWindows := [⟨0, 0x10, 0, .lowFirst⟩, ⟨0x10, 0x10, 0, .highFirst⟩] } }

theorem witness_StoreRegister : ∃ s s' : State, s.memWf = true ∧ s.dmem ≠ [] ∧ s.cfg.imemWindows = [] ∧
    s'.memWf = true ∧ s'.cfg.imemWindows ≠ [] ∧ s'.separate (s'.touched .short ((Mode.direct 7).eda .short s')) ∧
    ¬ s'.separate [1, 0x10] :=
  ⟨requested, mirrored, by decide, by decide, by decide, by decide, by decide, by decide, by decide⟩

theorem witness_LoadSelection : ∃ sel sel' : BitVec 7, sel ≠ 0 ∧ loadsItsAddress (loadRgsForm .short .sp sel) = false ∧
    sel' ≠ 0 ∧ loadsItsAddress (loadRgsForm .byte .r6 sel') = false :=
  ⟨0b1111111, 0b0111111, by decide, by decide, by decide, by decide⟩

theorem witness_StoreSelection : ∃ (s s' : State) (sel : BitVec 7) (low : Word) (bytes : List Word), s.memWf = true ∧
    sel ≠ 0 ∧ low = s.areg .sp - BitVec.ofNat 16 (Size.short.bytes.toNat * (selected .short sel).length) ∧
    bytes = ((List.range (selected .short sel).length).flatMap fun i =>
      s.touched .short (low + BitVec.ofNat 16 (Size.short.bytes.toNat * i))) ∧
    low = 0xFFF2 ∧ s.cfg.imemWindows = [] ∧ s'.cfg.imemWindows ≠ [] ∧ s'.separate bytes :=
  ⟨zeroed, { mirrored with sp := 0 }, 0b1111111, _, _, by decide, by decide, rfl, rfl, by decide, by decide, by decide,
    by decide⟩

theorem witness_SelectionPushPop : ∃ (s t t' : State) (bytes : List Word), s.memWf = true ∧
    loadsItsAddress (loadRgsForm .byte .r7 0b1000000) = false ∧
    bytes = ((List.range (selected .byte 0b1000000).length).flatMap fun i =>
      s.touched .byte (s.areg .r7 - BitVec.ofNat 16 (Size.byte.bytes.toNat * (i + 1)))) ∧
    exec (storeRgsForm .byte 0b1000000 .r7) s = .next t ∧ t'.cfg = t.cfg ∧ SameMemory t t' ∧
    t'.areg .r7 = t.areg .r7 ∧ t'.reg .r6 ≠ t.reg .r6 ∧ s.cfg.imemWindows = [] ∧ s.separate bytes :=
  ⟨zeroed, { zeroed with x := { zeroed.x with r7 := 0xFFFF }, pc := 0x0101 },
    { zeroed with x := { zeroed.x with r6 := 1, r7 := 0xFFFF } }, _, by decide, by decide, rfl, rfl, rfl,
    ⟨fun _ => rfl, fun _ => rfl⟩, by decide, by decide, by decide, by decide⟩

theorem witness_ReadSpecialRegister : ∃ s s' : State, s.cs.sel = false ∧ s'.cs.sel = true :=
  ⟨zeroed, { zeroed with cs := { zeroed.cs with sel := true } }, by decide, by decide⟩

theorem witness_WriteSpecialRegister : ∃ (s s' : State) (v v' : Word), v = s.reg .r1 ∧ s.cs.sel = false ∧
    v' = s'.reg .r1 ∧ s'.cs.sel = true :=
  ⟨zeroed, { zeroed with cs := { zeroed.cs with sel := true } }, _, _, rfl, by decide, rfl, by decide⟩

theorem witness_Additions : ∃ (f f' : BitVec 8) (c c' : Word), c = BitVec.ofNat 16 (if f = 0 then 256 else f.toNat) ∧
    c = 0x0100 ∧ c' = BitVec.ofNat 16 (if f' = 0 then 256 else f'.toNat) ∧ c' = 0x00FF :=
  ⟨0, 0xFF, _, _, rfl, by decide, rfl, by decide⟩

theorem witness_Subtractions : ∃ (f : BitVec 8) (c : Word), c = BitVec.ofNat 16 (if f = 0 then 256 else f.toNat) ∧
    c = 0x0001 :=
  ⟨1, _, rfl, by decide⟩

theorem witness_DoubleAdd : ∃ (a1 b1 d0 d1 : GReg) (s : State) (x y : BitVec 32), d0 ≠ a1 ∧ d0 ≠ b1 ∧ d0 ≠ d1 ∧
    x = s.reg a1 ++ s.reg .r0 ∧ y = s.reg b1 ++ s.reg .r2 ∧ x ≠ y :=
  ⟨.r1, .r3, .r4, .r5, { zeroed with x := { zeroed.x with r0 := 1 } }, _, _, by decide, by decide, by decide, rfl, rfl,
    by decide⟩

/-- The destination pair may be a source pair. -/
theorem witness_DoubleSubtract : ∃ (a1 b1 d0 d1 : GReg) (s : State) (x y : BitVec 32), d0 ≠ a1 ∧ d0 ≠ b1 ∧ d0 ≠ d1 ∧
    d1 = b1 ∧ x = s.reg a1 ++ s.reg .r0 ∧ y = s.reg b1 ++ s.reg d0 :=
  ⟨.r1, .r3, .r2, .r3, zeroed, _, _, by decide, by decide, by decide, by decide, rfl, rfl⟩

theorem witness_UnaryComputations : ∃ (s : State) (v : Word), v = s.reg .r1 ∧ v = 0x8000 :=
  ⟨{ zeroed with x := { zeroed.x with r1 := 0x8000 } }, _, rfl, by decide⟩

theorem witness_Shifts : ∃ (s s' : State) (c c' : Nat), c = (s.reg .r1).toNat % 16 ∧ c = 15 ∧
    c' = (s'.reg .r1).toNat % 16 ∧ c' = 0 :=
  ⟨{ zeroed with x := { zeroed.x with r1 := 0xFFFF } }, { zeroed with x := { zeroed.x with r1 := 0x0010 } }, _, _, rfl,
    by decide, rfl, by decide⟩

theorem witness_BitChanges : ∃ (s : State) (c : Nat), c = (s.reg .r1).toNat % 16 ∧ c = 15 :=
  ⟨{ zeroed with x := { zeroed.x with r1 := 0x001F } }, _, rfl, by decide⟩

theorem witness_BitTest : ∃ (s : State) (c : Nat), c = (s.reg .r1).toNat % 16 ∧ c = 14 :=
  ⟨{ zeroed with x := { zeroed.x with r1 := 0xFFFE } }, _, rfl, by decide⟩

/-- `Branches`, `CompareAndBranch`, `LoopCounterBranch` and `JumpsAndSubroutines` ask for a running processor. -/
theorem witness_Branches : ∃ s : State, s.run = .running := ⟨zeroed, by decide⟩
theorem witness_CompareAndBranch : ∃ s : State, s.run = .running ∧ s.pc = 0xFFFF :=
  ⟨{ zeroed with pc := 0xFFFF }, by decide, by decide⟩
theorem witness_LoopCounterBranch : ∃ s s' : State, s.run = .running ∧ s.lc = 1 ∧ s'.run = .running ∧ s'.lc = 0 :=
  ⟨{ zeroed with lc := 1 }, zeroed, by decide, by decide, by decide, by decide⟩
theorem witness_JumpsAndSubroutines : ∃ s : State, s.run = .running ∧ s.cs.sel = true ∧ s.iah = 0xF :=
  ⟨{ zeroed with cs := { zeroed.cs with sel := true }, iah := 0xF }, by decide, by decide, by decide⟩

theorem witness_CriticalSection : ∃ s t t' : State, s.cs.ie = true ∧ exec .scie s = .next t ∧ t'.cs.ie = t.cs.ie ∧
    t'.cs.save = t.cs.save ∧ t'.pins.irq = true :=
  ⟨requested, requested.setSreg .id 0 |> fun s => { s with pc := 0x0125, cs := ⟨0x010, false, false, true, false⟩ },
    { zeroed with cs := ⟨0, false, false, true, false⟩, pins := requested.pins }, by decide, rfl, by decide, by decide,
    by decide⟩

theorem witness_ReturnFromInterrupt : ∃ s : State, s.run = .running ∧ s.cs.ir = true :=
  ⟨State.reset, by decide, by decide⟩

theorem witness_InterruptAndReturn : ∃ s w u v : State, s.hostWrites = w ∧ w.run = .running ∧ w.pins.reset = false ∧
    w.pins.strq = false ∧ w.acknowledges = true ∧ step s = .next u ∧ v.run = .running ∧ v.cs.ir = u.cs.ir ∧
    v.ira = u.ira ∧ v.ccs = u.ccs ∧ v.iahs = u.iahs ∧ v.cs.ie = u.cs.ie ∧ v.cs.save = u.cs.save ∧ v.x ≠ u.x :=
  ⟨requested, _, _,
    { zeroed with
      x := { zeroed.x with r1 := 5 }
      cs := ⟨0, true, true, false, false⟩
      ira := 0x0124
      ccs := ⟨true, false, true, false⟩
      iahs := 0x7 },
    rfl, by decide, by decide, by decide, by decide, rfl, by decide, by decide, by decide, by decide, by decide,
    by decide, by decide, by decide⟩

end Sys2Proof.Tests
end

section
/-! Which instructions are refused, and by which name (O20). The outcome of each shared operation is reduced to the
refusal in it; `refusalOf` is computed for each group of instructions in the same terms; the two agree instruction by
instruction. -/

namespace Sys2Proof.Machine

/-! ## The refusal in an outcome -/

/-- The refusal that an outcome carries, if it is one. -/
def refusalIn : Host.Outcome State Fault Refusal → Option Refusal
  | .next _ => none
  | .fault _ => none
  | .refused r => some r

@[simp] theorem refusalIn_next (t : State) : refusalIn (.next t) = none := rfl
@[simp] theorem refusalIn_refused (r : Refusal) : refusalIn (.refused r) = some r := rfl

theorem refusalIn_eq_some_iff {o : Host.Outcome State Fault Refusal} {r : Refusal} :
    refusalIn o = some r ↔ o = .refused r := by
  cases o <;> simp [refusalIn]

/-- There is no fault (R330), so an outcome without a refusal is a next state. -/
theorem refusalIn_eq_none_iff {o : Host.Outcome State Fault Refusal} :
    refusalIn o = none ↔ ∃ t, o = .next t := by
  cases o with
  | next t => simp
  | fault f => cases f
  | refused r => simp

/-! ## The refusals of the shared operations -/

theorem refusalIn_transfer (s t : State) :
    refusalIn (transfer s t) = if s.run = .stopped then some .injectedControlTransfer else none := by
  cases hrun : s.run with
  | running => exact refusalIn_eq_none_iff.2 ⟨t, transfer_next_iff.2 ⟨hrun, rfl⟩⟩
  | stopped => exact refusalIn_eq_some_iff.2 (transfer_refused_iff.2 ⟨hrun, rfl⟩)

theorem refusalIn_loadReg (z : Size) (m : Mode) (rd : GReg) (s : State) :
    refusalIn (loadReg z m rd s) = if m.updatesReg rd then some .loadIntoAddressRegister else none := by
  split
  next h => exact refusalIn_eq_some_iff.2 (loadReg_refused_iff.2 ⟨h, rfl⟩)
  next h => exact refusalIn_eq_none_iff.2 ⟨_, loadReg_next_iff.2 ⟨eq_false_of_ne_true h, rfl⟩⟩

theorem refusalIn_loadRgs (z : Size) (an : AReg) (sel : BitVec 7) (s : State) :
    refusalIn (loadRgs z an sel s) =
      if sel = 0 then some .emptyRgs
      else if (selected z sel).any (AReg.isSlot an) then some .loadIntoAddressRegister
      else none := by
  split_ifs with hempty hown
  · exact refusalIn_eq_some_iff.2 (loadRgs_refused_iff.2 (.inl ⟨hempty, rfl⟩))
  · exact refusalIn_eq_some_iff.2 (loadRgs_refused_iff.2 (.inr ⟨hempty, hown, rfl⟩))
  · exact refusalIn_eq_none_iff.2 ⟨_, loadRgs_next_iff.2 ⟨hempty, eq_false_of_ne_true hown, rfl⟩⟩

theorem refusalIn_storeRgs (z : Size) (sel : BitVec 7) (an : AReg) (s : State) :
    refusalIn (storeRgs z sel an s) = if sel = 0 then some .emptyRgs else none := by
  split
  next hempty => exact refusalIn_eq_some_iff.2 (storeRgs_refused_iff.2 ⟨hempty, rfl⟩)
  next hempty => exact refusalIn_eq_none_iff.2 ⟨_, storeRgs_next_iff.2 ⟨hempty, rfl⟩⟩

/-- An injected `rtir` is refused as a control transfer, whatever CS.IR is (R355 before R314). -/
theorem refusalIn_execRtir (s : State) :
    refusalIn (execRtir s) =
      if s.run = .stopped then some .injectedControlTransfer
      else if s.cs.ir = false then some .rtirOutsideInterrupt
      else none := by
  unfold execRtir
  cases hrun : s.run with
  | running => cases hir : s.cs.ir <;> simp [refusalIn_transfer, hrun]
  | stopped => simp [refusalIn_transfer, hrun]

/-! ## The dispatch, by groups -/

theorem exec_loadForm (z : Size) (m : Mode) (rd : GReg) (s : State) :
    exec (loadForm z m rd) s = loadReg z m rd s := by
  cases z <;> cases m <;> rfl

theorem exec_loadRgsForm (z : Size) (an : AReg) (sel : BitVec 7) (s : State) :
    exec (loadRgsForm z an sel) s = loadRgs z an sel s := by
  cases z <;> rfl

theorem exec_storeRgsForm (z : Size) (sel : BitVec 7) (an : AReg) (s : State) :
    exec (storeRgsForm z sel an) s = storeRgs z sel an s := by
  cases z <;> rfl

/-- Every control transfer but `rtir` ends in `transfer`: whether it answers depends on the run state alone. -/
theorem exec_eq_transfer_of_isTransfer {i : Instr} (ht : isTransfer i = true) (hr : i ≠ .rtir) (s : State) :
    ∃ t, exec i s = transfer s t := by
  cases i with
  | rtir => exact absurd rfl hr
  | brnc | brcr | brno | brof | brnz | brzr | brps | brng | brls | brhi | brlo | brge | brle | brgt | bral | brlc
  | jumpIa12 | jpsrIa12 | jumpTa | jpsrTa | rtsr => exact ⟨_, rfl⟩
  | _ => cases ht

/-! ## What the spec refuses, by groups -/

/-- No control transfer has a register selection or loads a register. -/
theorem wf_and_not_loadsItsAddress_of_isTransfer {i : Instr} (ht : isTransfer i = true) :
    i.wf = true ∧ loadsItsAddress i = false := by
  cases i with
  | ldbtRgs | ldshRgs | stbtRgs | stshRgs => cases ht
  | ldbtPostInc | ldbtPreDec | ldbtPostUpd | ldshPostInc | ldshPreDec | ldshPostUpd => cases ht
  | _ => exact ⟨rfl, rfl⟩

theorem refusalOf_of_isTransfer {i : Instr} (ht : isTransfer i = true) (s : State) :
    refusalOf i s =
      if s.run = .stopped then some .injectedControlTransfer
      else if i = .rtir ∧ s.cs.ir = false then some .rtirOutsideInterrupt
      else none := by
  obtain ⟨hwf, hload⟩ := wf_and_not_loadsItsAddress_of_isTransfer ht
  simp [refusalOf, hwf, hload, ht]

theorem refusalOf_of_not_isTransfer {i : Instr} (ht : isTransfer i = false) (s : State) :
    refusalOf i s =
      if i.wf = false then some .emptyRgs
      else if loadsItsAddress i then some .loadIntoAddressRegister
      else none := by
  have hr : i ≠ .rtir := by
    rintro rfl
    cases ht
  simp [refusalOf, ht, hr]

theorem refusalOf_loadForm (z : Size) (m : Mode) (rd : GReg) (s : State) :
    refusalOf (loadForm z m rd) s = if m.updatesReg rd then some .loadIntoAddressRegister else none := by
  have ht : isTransfer (loadForm z m rd) = false := by cases z <;> cases m <;> rfl
  have hwf : (loadForm z m rd).wf = true := by cases z <;> cases m <;> rfl
  have hload : loadsItsAddress (loadForm z m rd) = m.updatesReg rd := by cases z <;> cases m <;> rfl
  simp [refusalOf_of_not_isTransfer ht, hwf, hload]

theorem selectionWf_eq_false_iff {sel : BitVec 7} : selectionWf sel = false ↔ sel = 0 := by
  simp [selectionWf]

theorem any_pickFrom_nil (p : Slot → Bool) (sel : BitVec 7) (k : Nat) : (pickFrom sel k []).any p = false := rfl

/-- A slot is picked where its flag is set. -/
theorem any_pickFrom_cons (p : Slot → Bool) (sel : BitVec 7) (k : Nat) (x : Slot) (rest : List Slot) :
    (pickFrom sel k (x :: rest)).any p = (sel.getLsbD k && p x || (pickFrom sel (k + 1) rest).any p) := by
  cases h : sel.getLsbD k <;> simp [pickFrom, h]

/-- The two slots that can be an address register are R6, and TA in the slot list of the shorts (R169, R199). -/
theorem loadsItsAddress_loadRgsForm (z : Size) (an : AReg) (sel : BitVec 7) :
    loadsItsAddress (loadRgsForm z an sel) = (selected z sel).any (AReg.isSlot an) := by
  rw [Bool.eq_iff_iff]
  cases z <;> cases an <;>
    simp [loadRgsForm, loadsItsAddress, selected, slots, any_pickFrom_cons, any_pickFrom_nil, AReg.isSlot, AReg.isReg]

theorem refusalOf_loadRgsForm (z : Size) (an : AReg) (sel : BitVec 7) (s : State) :
    refusalOf (loadRgsForm z an sel) s =
      if sel = 0 then some .emptyRgs
      else if (selected z sel).any (AReg.isSlot an) then some .loadIntoAddressRegister
      else none := by
  have ht : isTransfer (loadRgsForm z an sel) = false := by cases z <;> rfl
  have hwf : (loadRgsForm z an sel).wf = selectionWf sel := by cases z <;> rfl
  simp only [refusalOf_of_not_isTransfer ht, hwf, selectionWf_eq_false_iff, loadsItsAddress_loadRgsForm]

theorem refusalOf_storeRgsForm (z : Size) (sel : BitVec 7) (an : AReg) (s : State) :
    refusalOf (storeRgsForm z sel an) s = if sel = 0 then some .emptyRgs else none := by
  have ht : isTransfer (storeRgsForm z sel an) = false := by cases z <;> rfl
  have hwf : (storeRgsForm z sel an).wf = selectionWf sel := by cases z <;> rfl
  have hload : loadsItsAddress (storeRgsForm z sel an) = false := by cases z <;> rfl
  simp [refusalOf_of_not_isTransfer ht, hwf, selectionWf_eq_false_iff, hload]

/-! ## The two agree -/

theorem refusalIn_exec_loadForm (z : Size) (m : Mode) (rd : GReg) (s : State) :
    refusalIn (exec (loadForm z m rd) s) = refusalOf (loadForm z m rd) s := by
  rw [exec_loadForm, refusalIn_loadReg, refusalOf_loadForm]

theorem refusalIn_exec_loadRgsForm (z : Size) (an : AReg) (sel : BitVec 7) (s : State) :
    refusalIn (exec (loadRgsForm z an sel) s) = refusalOf (loadRgsForm z an sel) s := by
  rw [exec_loadRgsForm, refusalIn_loadRgs, refusalOf_loadRgsForm]

theorem refusalIn_exec_storeRgsForm (z : Size) (sel : BitVec 7) (an : AReg) (s : State) :
    refusalIn (exec (storeRgsForm z sel an) s) = refusalOf (storeRgsForm z sel an) s := by
  rw [exec_storeRgsForm, refusalIn_storeRgs, refusalOf_storeRgsForm]

theorem refusalIn_exec_of_isTransfer {i : Instr} (ht : isTransfer i = true) (s : State) :
    refusalIn (exec i s) = refusalOf i s := by
  rw [refusalOf_of_isTransfer ht]
  by_cases hr : i = .rtir
  · subst hr
    simpa [exec] using refusalIn_execRtir s
  · obtain ⟨t, hexec⟩ := exec_eq_transfer_of_isTransfer ht hr s
    simp [hexec, refusalIn_transfer, hr]

/-- An instruction that is none of those the spec's refusals name, and whose meaning ends in a next state. -/
theorem refusalIn_exec_of_next {i : Instr} {s t : State} (hexec : exec i s = .next t) (ht : isTransfer i = false)
    (hwf : i.wf = true) (hload : loadsItsAddress i = false) : refusalIn (exec i s) = refusalOf i s := by
  simp [hexec, refusalOf_of_not_isTransfer ht, hwf, hload]

/-- What the meaning of an instruction refuses is what the spec refuses. The register loads, the register selections and
the control transfers are the instructions that can be refused; the meaning of every other one ends in a next state. -/
theorem refusalIn_exec (i : Instr) (s : State) : refusalIn (exec i s) = refusalOf i s := by
  cases i with
  | ldbtDirect da8 rd => exact refusalIn_exec_loadForm .byte (.direct da8) rd s
  | ldbtOffset ofs an rd => exact refusalIn_exec_loadForm .byte (.offset ofs an) rd s
  | ldbtIndex rx an rd => exact refusalIn_exec_loadForm .byte (.index rx an) rd s
  | ldbtPostInc an rd => exact refusalIn_exec_loadForm .byte (.postInc an) rd s
  | ldbtPreDec an rd => exact refusalIn_exec_loadForm .byte (.preDec an) rd s
  | ldbtPostUpd an rd => exact refusalIn_exec_loadForm .byte (.postUpd an) rd s
  | ldshDirect da8 rd => exact refusalIn_exec_loadForm .short (.direct da8) rd s
  | ldshOffset ofs an rd => exact refusalIn_exec_loadForm .short (.offset ofs an) rd s
  | ldshIndex rx an rd => exact refusalIn_exec_loadForm .short (.index rx an) rd s
  | ldshPostInc an rd => exact refusalIn_exec_loadForm .short (.postInc an) rd s
  | ldshPreDec an rd => exact refusalIn_exec_loadForm .short (.preDec an) rd s
  | ldshPostUpd an rd => exact refusalIn_exec_loadForm .short (.postUpd an) rd s
  | ldbtRgs an sel => exact refusalIn_exec_loadRgsForm .byte an sel s
  | ldshRgs an sel => exact refusalIn_exec_loadRgsForm .short an sel s
  | stbtRgs sel an => exact refusalIn_exec_storeRgsForm .byte sel an s
  | stshRgs sel an => exact refusalIn_exec_storeRgsForm .short sel an s
  | brnc | brcr | brno | brof | brnz | brzr | brps | brng | brls | brhi | brlo | brge | brle | brgt | bral | brlc
  | jumpIa12 | jpsrIa12 | jumpTa | jpsrTa | rtsr | rtir => exact refusalIn_exec_of_isTransfer rfl s
  | _ => exact refusalIn_exec_of_next rfl rfl rfl rfl

/-- Settles O20: the refusal in the outcome is the spec's (`refusalIn_exec`), and an outcome without one is a next
state. -/
theorem refusedExactly : Obligations.RefusedExactly := by
  unfold Obligations.RefusedExactly
  intro i s
  rw [← refusalIn_exec i s]
  exact ⟨fun _ => refusalIn_eq_some_iff.1, refusalIn_eq_none_iff.1⟩

end Sys2Proof.Machine
end

section
/-! The frame of every instruction (O21), and the two invariants of the step that rest on it: the canonical form of the
memories (O17, O18) and who writes CS.IR (O19). Each named update of the state has one rule that says which components
it writes; the frame of an instruction is put together from the rules of its updates. -/

namespace Sys2Proof.Machine

/-! ## Components that two states agree in -/

/-- The two states agree in a component. -/
def Part.Same (p : Part) (s t : State) : Prop :=
  match p with
  | .reg r => t.reg r = s.reg r
  | .cc => t.cc = s.cc
  | .ivtp => t.cs.ivtp = s.cs.ivtp
  | .ir => t.cs.ir = s.cs.ir
  | .ie => t.cs.ie = s.cs.ie
  | .save => t.cs.save = s.cs.save
  | .sel => t.cs.sel = s.cs.sel
  | .lc => t.lc = s.lc
  | .au => t.au = s.au
  | .sp => t.sp = s.sp
  | .ta => t.ta = s.ta
  | .sa => t.sa = s.sa
  | .ira => t.ira = s.ira
  | .ccs => t.ccs = s.ccs
  | .iah => t.iah = s.iah
  | .iahs => t.iahs = s.iahs
  | .run => t.run = s.run
  | .dbgo => t.dbgo = s.dbgo
  | .lastPc => t.lastPc = s.lastPc
  | .host => t.iack = s.iack ∧ t.pins = s.pins ∧ t.inputs = s.inputs

theorem Part.Same.trans {p : Part} {s t u : State} (h : p.Same s t) (h' : p.Same t u) : p.Same s u := by
  cases p with
  | host =>
    obtain ⟨hiack, hpins, hinputs⟩ := h
    obtain ⟨hiack', hpins', hinputs'⟩ := h'
    exact ⟨hiack'.trans hiack, hpins'.trans hpins, hinputs'.trans hinputs⟩
  | _ => exact Eq.trans h' h

theorem unchanged_iff {parts : List Part} {s t : State} :
    Unchanged parts s t ↔ (∀ p ∉ parts, p.Same s t) ∧ t.cfg = s.cfg ∧ t.draws = s.draws := by
  constructor
  · intro h
    refine ⟨fun p hp => ?_, h.cfg, h.draws⟩
    cases p
    exacts [h.reg _ hp, h.cc hp, h.ivtp hp, h.ir hp, h.ie hp, h.save hp, h.sel hp, h.lc hp, h.au hp, h.sp hp, h.ta hp,
      h.sa hp, h.ira hp, h.ccs hp, h.iah hp, h.iahs hp, h.run hp, h.dbgo hp, h.lastPc hp, h.host hp]
  · rintro ⟨h, hcfg, hdraws⟩
    exact ⟨fun r => h (.reg r), h .cc, h .ivtp, h .ir, h .ie, h .save, h .sel, h .lc, h .au, h .sp, h .ta, h .sa, h .ira,
      h .ccs, h .iah, h .iahs, h .run, h .dbgo, h .lastPc, h .host, hcfg, hdraws⟩

theorem Unchanged.trans {ps qs : List Part} {s t u : State} (h : Unchanged ps s t) (h' : Unchanged qs t u) :
    Unchanged (ps ++ qs) s u := by
  obtain ⟨hsame, hcfg, hdraws⟩ := unchanged_iff.1 h
  obtain ⟨hsame', hcfg', hdraws'⟩ := unchanged_iff.1 h'
  refine unchanged_iff.2 ⟨fun p hp => ?_, hcfg'.trans hcfg, hdraws'.trans hdraws⟩
  rw [List.mem_append, not_or] at hp
  exact (hsame p hp.1).trans (hsame' p hp.2)

theorem Unchanged.mono {ps qs : List Part} {s t : State} (h : Unchanged ps s t) (hsub : ps ⊆ qs) : Unchanged qs s t := by
  obtain ⟨hsame, hcfg, hdraws⟩ := unchanged_iff.1 h
  exact unchanged_iff.2 ⟨fun p hp => hsame p fun hm => hp (hsub hm), hcfg, hdraws⟩

/-- Every component outside the list is the same; for one record update, by computing each component of it. -/
theorem Unchanged.of_same {ps : List Part} {s t : State}
    (h : ∀ p ∉ ps, p.Same s t := by intro p hp; cases p <;> simp_all [Part.Same, State.reg])
    (hcfg : t.cfg = s.cfg := by rfl) (hdraws : t.draws = s.draws := by rfl) : Unchanged ps s t :=
  unchanged_iff.2 ⟨h, hcfg, hdraws⟩

/-! ## What an update of the registers writes -/

/-- A change of the state that writes at most the listed components and pc, and neither memory. -/
structure WritesAtMost (parts : List Part) (s t : State) : Prop where
  frame : Unchanged parts s t
  imem : t.imem = s.imem
  dmem : t.dmem = s.dmem

namespace WritesAtMost

variable {ps qs : List Part} {s t u : State}

theorem trans (h : WritesAtMost ps s t) (h' : WritesAtMost qs t u) : WritesAtMost (ps ++ qs) s u :=
  ⟨h.frame.trans h'.frame, h'.imem.trans h.imem, h'.dmem.trans h.dmem⟩

theorem mono (h : WritesAtMost ps s t) (hsub : ps ⊆ qs) : WritesAtMost qs s t :=
  ⟨h.frame.mono hsub, h.imem, h.dmem⟩

theorem memWf (h : WritesAtMost ps s t) (hs : s.memWf = true) : t.memWf = true :=
  (State.memWf_congr h.imem h.dmem).trans hs

theorem refl (s : State) : WritesAtMost [] s s := ⟨.of_same, rfl, rfl⟩

theorem setPc (s : State) (v : Word) : WritesAtMost [] s { s with pc := v } :=
  ⟨.of_same, rfl, rfl⟩

theorem advancePc (s : State) : WritesAtMost [] s s.advancePc := setPc s _

theorem setReg (s : State) (r : GReg) (v : Word) : WritesAtMost [.reg r] s (s.setReg r v) :=
  ⟨.of_same, rfl, rfl⟩

theorem setCc (s : State) (f : Flags) : WritesAtMost [.cc] s (s.setCc f) :=
  ⟨.of_same, rfl, rfl⟩

theorem setIvtp (s : State) (v : BitVec 11) : WritesAtMost [.ivtp] s { s with cs := { s.cs with ivtp := v } } :=
  ⟨.of_same, rfl, rfl⟩

theorem setIr (s : State) (b : Bool) : WritesAtMost [.ir] s { s with cs := { s.cs with ir := b } } :=
  ⟨.of_same, rfl, rfl⟩

theorem setIe (s : State) (b : Bool) : WritesAtMost [.ie] s { s with cs := { s.cs with ie := b } } :=
  ⟨.of_same, rfl, rfl⟩

theorem setSave (s : State) (b : Bool) : WritesAtMost [.save] s { s with cs := { s.cs with save := b } } :=
  ⟨.of_same, rfl, rfl⟩

theorem setSel (s : State) (b : Bool) : WritesAtMost [.sel] s { s with cs := { s.cs with sel := b } } :=
  ⟨.of_same, rfl, rfl⟩

theorem setLc (s : State) (v : Word) : WritesAtMost [.lc] s { s with lc := v } :=
  ⟨.of_same, rfl, rfl⟩

theorem setAu (s : State) (v : Word) : WritesAtMost [.au] s { s with au := v } :=
  ⟨.of_same, rfl, rfl⟩

theorem setSp (s : State) (v : Word) : WritesAtMost [.sp] s { s with sp := v } :=
  ⟨.of_same, rfl, rfl⟩

theorem setTa (s : State) (v : Word) : WritesAtMost [.ta] s { s with ta := v } :=
  ⟨.of_same, rfl, rfl⟩

theorem setSa (s : State) (v : Word) : WritesAtMost [.sa] s { s with sa := v } :=
  ⟨.of_same, rfl, rfl⟩

theorem setIra (s : State) (v : Word) : WritesAtMost [.ira] s { s with ira := v } :=
  ⟨.of_same, rfl, rfl⟩

theorem setIah (s : State) (v : BitVec 4) : WritesAtMost [.iah] s { s with iah := v } :=
  ⟨.of_same, rfl, rfl⟩

theorem setRun (s : State) (v : RunState) : WritesAtMost [.run] s { s with run := v } :=
  ⟨.of_same, rfl, rfl⟩

theorem setDbgo (s : State) (v : Word) : WritesAtMost [.dbgo] s { s with dbgo := v } :=
  ⟨.of_same, rfl, rfl⟩

theorem setAreg (s : State) (an : AReg) (v : Word) : WritesAtMost [AReg.part an] s (s.setAreg an v) := by
  cases an with
  | sp => exact setSp s v
  | ta => exact setTa s v
  | r6 => exact setReg s .r6 v
  | r7 => exact setReg s .r7 v

theorem setSlot (s : State) (k : Slot) (v : Word) : WritesAtMost [Slot.part k] s (s.setSlot k v) := by
  cases k with
  | gp r => exact setReg s r v
  | sa => exact setSa s v
  | ta => exact setTa s v

/-- A move to SA goes to SA or IRA by CS.AS (R36), a move to ID nowhere (R42). -/
theorem setSreg (s : State) (k : SReg) (v : Word) : WritesAtMost (SReg.written s k) s (s.setSreg k v) := by
  cases k with
  | cc => exact setCc s _
  | cs => exact setIvtp s _
  | lc => exact setLc s v
  | au => exact setAu s v
  | sp => exact setSp s v
  | ta => exact setTa s v
  | sa =>
    simp only [SReg.written, State.setSreg]
    split
    · exact setIra s v
    · exact setSa s v
  | id => exact refl s

/-- The update of an addressing mode, to a value computed from another state (R176). -/
theorem applyUpdate (m : Mode) (z : Size) (s0 s : State) : WritesAtMost m.parts s (m.applyUpdate z s0 s) := by
  cases m with
  | direct | offset | index => exact refl s
  | postInc an | preDec an | postUpd an => exact setAreg s an _

theorem loadSlots (z : Size) (l : List Slot) (a : Word) (s : State) :
    WritesAtMost (l.map Slot.part) s (State.loadSlots z l a s) := by
  induction l generalizing a s with
  | nil => exact refl s
  | cons k rest ih => exact (setSlot s k _).trans (ih _ _)

/-- The return from an interrupt: pc, CC, IAH and CS.IR (R314, R339). -/
theorem returnFromInterrupt (s : State) : WritesAtMost [.cc, .ir, .iah] s s.returnFromInterrupt :=
  (((setCc s s.ccs).trans (setIr _ false)).trans (setIah _ s.iahs)).trans (setPc _ s.ira)

/-! ## What the shared endings of the instructions write -/

theorem of_done (h : done u = .next t) (hu : WritesAtMost ps s u) : WritesAtMost ps s t := by
  obtain rfl := done_next_iff.1 h
  simpa using hu.trans (advancePc u)

theorem of_transfer (h : transfer s u = .next t) (hu : WritesAtMost ps s u) : WritesAtMost ps s t := by
  obtain ⟨-, rfl⟩ := transfer_next_iff.1 h
  exact hu

/-- An instruction whose result goes to a general register. -/
theorem of_done_setReg {rd : GReg} {v : Word} (h : done (s.setReg rd v) = .next t) : WritesAtMost [.reg rd] s t :=
  of_done h (setReg s rd v)

/-- An instruction that sets the condition codes only. -/
theorem of_done_setCc {f : Flags} (h : done (s.setCc f) = .next t) : WritesAtMost [.cc] s t :=
  of_done h (setCc s f)

/-- An instruction whose result goes to a general register and sets the condition codes. -/
theorem of_done_setReg_setCc {rd : GReg} {v : Word} {f : Flags} (h : done ((s.setReg rd v).setCc f) = .next t) :
    WritesAtMost [.cc, .reg rd] s t :=
  of_done h (((setReg s rd v).trans (setCc _ f)).mono (by simp))

theorem of_branchIf {taken : Bool} {io8 : BitVec 8} (h : branchIf taken io8 s = .next t) : WritesAtMost [] s t :=
  of_transfer h (setPc s _)

theorem of_loadReg {z : Size} {m : Mode} {rd : GReg} (h : loadReg z m rd s = .next t) :
    WritesAtMost (.reg rd :: m.parts) s t := by
  obtain ⟨-, rfl⟩ := loadReg_next_iff.1 h
  exact of_done rfl ((setReg s rd _).trans (applyUpdate m z s _))

theorem of_loadRgs {z : Size} {an : AReg} {sel : BitVec 7} (h : loadRgs z an sel s = .next t) :
    WritesAtMost (AReg.part an :: (selected z sel).map Slot.part) s t := by
  obtain ⟨-, -, rfl⟩ := loadRgs_next_iff.1 h
  exact of_done rfl (((loadSlots z _ _ s).trans (setAreg _ an _)).mono (by simp))

end WritesAtMost

/-! ## Stores -/

theorem Unchanged.refl (s : State) : Unchanged [] s s := (WritesAtMost.refl s).frame

theorem Unchanged.writeByte (s : State) (a : Word) (b : Byte) : Unchanged [] s (s.writeByte a b) := .of_same

theorem Unchanged.store (s : State) (z : Size) (a v : Word) : Unchanged [] s (s.store z a v) := by
  cases z with
  | byte => exact .writeByte s a _
  | short => exact (Unchanged.writeByte s _ _).trans (.writeByte _ _ _)

theorem Unchanged.storeSlots (z : Size) (l : List Slot) (a : Word) (s : State) :
    Unchanged [] s (State.storeSlots z l a s) := by
  induction l generalizing a s with
  | nil => exact .refl s
  | cons k rest ih => exact (Unchanged.store s z _ _).trans (ih _ _)

/-- A store of one register ends in the bytes stored and the mode's update. -/
theorem storeReg_next_writesAtMost {z : Size} {m : Mode} {rs : GReg} {s t : State} (h : storeReg z m rs s = .next t) :
    WritesAtMost m.parts (s.store z (m.eda z s) (s.reg rs)) t :=
  .of_done h (.applyUpdate m z s _)

/-- A store of a register selection ends in the bytes stored and the update of the address register. -/
theorem storeRgs_next_writesAtMost {z : Size} {sel : BitVec 7} {an : AReg} {s t : State}
    (h : storeRgs z sel an s = .next t) :
    WritesAtMost [AReg.part an] (State.storeSlots z (selected z sel).reverse (s.areg an) s) t := by
  obtain ⟨-, rfl⟩ := storeRgs_next_iff.1 h
  exact .of_done rfl (.setAreg _ an _)

theorem exec_storeForm (z : Size) (m : Mode) (rs : GReg) (s : State) :
    exec (storeForm z m rs) s = storeReg z m rs s := by
  cases z <;> cases m <;> rfl

/-- The stores are the two forms, of one register and of a register selection. -/
theorem storeForm_or_storeRgsForm_of_isStore {i : Instr} (hi : isStore i = true) :
    (∃ z m rs, i = storeForm z m rs) ∨ ∃ z sel an, i = storeRgsForm z sel an := by
  cases i with
  | stbtDirect rs da8 => exact .inl ⟨.byte, .direct da8, rs, rfl⟩
  | stbtOffset rs ofs an => exact .inl ⟨.byte, .offset ofs an, rs, rfl⟩
  | stbtIndex rs rx an => exact .inl ⟨.byte, .index rx an, rs, rfl⟩
  | stbtPostInc rs an => exact .inl ⟨.byte, .postInc an, rs, rfl⟩
  | stbtPreDec rs an => exact .inl ⟨.byte, .preDec an, rs, rfl⟩
  | stbtPostUpd rs an => exact .inl ⟨.byte, .postUpd an, rs, rfl⟩
  | stbtRgs sel an => exact .inr ⟨.byte, sel, an, rfl⟩
  | stshDirect rs da8 => exact .inl ⟨.short, .direct da8, rs, rfl⟩
  | stshOffset rs ofs an => exact .inl ⟨.short, .offset ofs an, rs, rfl⟩
  | stshIndex rs rx an => exact .inl ⟨.short, .index rx an, rs, rfl⟩
  | stshPostInc rs an => exact .inl ⟨.short, .postInc an, rs, rfl⟩
  | stshPreDec rs an => exact .inl ⟨.short, .preDec an, rs, rfl⟩
  | stshPostUpd rs an => exact .inl ⟨.short, .postUpd an, rs, rfl⟩
  | stshRgs sel an => exact .inr ⟨.short, sel, an, rfl⟩
  | _ => cases hi

/-! ## What each instruction writes -/

theorem mayWrite_loadForm (s : State) (z : Size) (m : Mode) (rd : GReg) :
    mayWrite s (loadForm z m rd) = .reg rd :: m.parts := by
  cases z <;> cases m <;> rfl

theorem mayWrite_storeForm (s : State) (z : Size) (m : Mode) (rs : GReg) : mayWrite s (storeForm z m rs) = m.parts := by
  cases z <;> cases m <;> rfl

theorem mayWrite_storeRgsForm (s : State) (z : Size) (sel : BitVec 7) (an : AReg) :
    mayWrite s (storeRgsForm z sel an) = [AReg.part an] := by
  cases z <;> rfl

theorem written_subset_mayWrite_mtsr {s : State} {rs : GReg} {k : SReg} :
    SReg.written s k ⊆ mayWrite s (.mtsr rs k) := List.subset_append_right _ _

theorem execRtir_next_iff {s t : State} :
    execRtir s = .next t ↔ s.run = .running ∧ s.cs.ir = true ∧ t = s.returnFromInterrupt := by
  unfold execRtir
  cases hrun : s.run <;> cases hir : s.cs.ir <;> simp [transfer_next_iff, hrun]

theorem exec_loadForm_writesAtMost (z : Size) (m : Mode) (rd : GReg) {s t : State}
    (h : exec (loadForm z m rd) s = .next t) : WritesAtMost (mayWrite s (loadForm z m rd)) s t := by
  rw [mayWrite_loadForm]
  exact .of_loadReg ((exec_loadForm z m rd s).symm.trans h)

/-- An instruction that is no store writes at most what the spec's lists name for it, and no memory. -/
theorem exec_writesAtMost {i : Instr} {s t : State} (hi : isStore i = false) (h : exec i s = .next t) :
    WritesAtMost (mayWrite s i) s t := by
  cases i with
  | ldbtDirect da8 rd => exact exec_loadForm_writesAtMost .byte (.direct da8) rd h
  | ldbtOffset ofs an rd => exact exec_loadForm_writesAtMost .byte (.offset ofs an) rd h
  | ldbtIndex rx an rd => exact exec_loadForm_writesAtMost .byte (.index rx an) rd h
  | ldbtPostInc an rd => exact exec_loadForm_writesAtMost .byte (.postInc an) rd h
  | ldbtPreDec an rd => exact exec_loadForm_writesAtMost .byte (.preDec an) rd h
  | ldbtPostUpd an rd => exact exec_loadForm_writesAtMost .byte (.postUpd an) rd h
  | ldshDirect da8 rd => exact exec_loadForm_writesAtMost .short (.direct da8) rd h
  | ldshOffset ofs an rd => exact exec_loadForm_writesAtMost .short (.offset ofs an) rd h
  | ldshIndex rx an rd => exact exec_loadForm_writesAtMost .short (.index rx an) rd h
  | ldshPostInc an rd => exact exec_loadForm_writesAtMost .short (.postInc an) rd h
  | ldshPreDec an rd => exact exec_loadForm_writesAtMost .short (.preDec an) rd h
  | ldshPostUpd an rd => exact exec_loadForm_writesAtMost .short (.postUpd an) rd h
  | ldbtRgs | ldshRgs => exact .of_loadRgs h
  | stbtDirect | stbtOffset | stbtIndex | stbtPostInc | stbtPreDec | stbtPostUpd | stbtRgs
  | stshDirect | stshOffset | stshIndex | stshPostInc | stshPreDec | stshPostUpd | stshRgs => cases hi
  | brnc | brcr | brno | brof | brnz | brzr | brps | brng | brls | brhi | brlo | brge | brle | brgt | bral =>
    exact .of_branchIf h
  | brlc => exact (WritesAtMost.setLc s _).trans (.of_branchIf h)
  | jumpTa | rtsr => exact .of_transfer h (.setPc s _)
  | jumpIa12 => exact .of_transfer h ((WritesAtMost.setIah s 0).trans (.setPc _ _))
  | jpsrTa => exact .of_transfer h ((WritesAtMost.setSa s (s.pc + 1)).trans (.setPc _ _))
  | jpsrIa12 => exact .of_transfer h (((WritesAtMost.setSa s (s.pc + 1)).trans (.setIah _ 0)).trans (.setPc _ _))
  | rtir =>
    obtain ⟨-, -, rfl⟩ := execRtir_next_iff.1 h
    exact WritesAtMost.returnFromInterrupt s
  | siah => exact .of_done h (.setIah s _)
  | stop =>
    cases h
    exact (WritesAtMost.advancePc s).trans (.setRun _ .stopped)
  | rspc =>
    cases h
    exact .setPc s _
  | stie | clie | rsie => exact .of_done h (.setIe s _)
  | scie => exact .of_done h ((WritesAtMost.setIe s false).trans (.setSave _ s.cs.ie))
  | stas | clas => exact .of_done h (.setSel s _)
  | svpc | mtdp => exact .of_done h (.setDbgo s _)
  | adsp => exact .of_done h (.setAreg s _ _)
  | mtsrConstCc => exact .of_done h (.setSreg s .cc _)
  | mtsrConstCs => exact .of_done h (.setSreg s .cs _)
  | mtsrConstLc => exact .of_done h (.setSreg s .lc _)
  | mtsrConstAu => exact .of_done h (.setSreg s .au _)
  | mtsr rs k => exact (WritesAtMost.of_done h (.setSreg s k _)).mono written_subset_mayWrite_mtsr
  | subf | subfConst | subc | sbcf | addt | addtConst | addc | adcf | andb | andbConst =>
    exact .of_done_setReg_setCc h
  | comp | compPos | compNeg | cmpc | cpcf | btts | bttsConst => exact .of_done_setCc h
  | move | moveConst | mfsr | mfdp | addh | negt | absl | clzr | sxbt | sxsh | mult | mlhu | mlhs
  | invt | iorb | iorbConst | xorb | shlz | shlzConst | shru | shruConst | shlf | shlfConst | shrs | shrsConst
  | btcl | btclConst | btst | btstConst | bttg | bttgConst => exact .of_done_setReg h

/-- A store writes at most its address register, besides memory. -/
theorem exec_store_frame {i : Instr} {s t : State} (hi : isStore i = true) (h : exec i s = .next t) :
    Unchanged (mayWrite s i) s t := by
  obtain ⟨z, m, rs, rfl⟩ | ⟨z, sel, an, rfl⟩ := storeForm_or_storeRgsForm_of_isStore hi
  · rw [mayWrite_storeForm]
    have hw := storeReg_next_writesAtMost ((exec_storeForm z m rs s).symm.trans h)
    exact (Unchanged.store s z _ _).trans hw.frame
  · rw [mayWrite_storeRgsForm]
    have hw := storeRgs_next_writesAtMost ((exec_storeRgsForm z sel an s).symm.trans h)
    exact (Unchanged.storeSlots z _ _ s).trans hw.frame

/-- Settles O21: a store writes its address register, every other instruction the components of its updates. -/
theorem instructionFrame : Obligations.InstructionFrame := by
  unfold Obligations.InstructionFrame
  intro i s t h
  cases hi : isStore i with
  | true => exact exec_store_frame hi h
  | false => exact (exec_writesAtMost hi h).frame

/-! ## The canonical form of the memories -/

theorem exec_store_memWf {i : Instr} {s t : State} (hi : isStore i = true) (h : exec i s = .next t)
    (hs : s.memWf = true) : t.memWf = true := by
  obtain ⟨z, m, rs, rfl⟩ | ⟨z, sel, an, rfl⟩ := storeForm_or_storeRgsForm_of_isStore hi
  · have hw := storeReg_next_writesAtMost ((exec_storeForm z m rs s).symm.trans h)
    exact hw.memWf (State.memWf_store hs z _ _)
  · have hw := storeRgs_next_writesAtMost ((exec_storeRgsForm z sel an s).symm.trans h)
    exact hw.memWf (State.memWf_storeSlots hs)

theorem exec_memWf {i : Instr} {s t : State} (h : exec i s = .next t) (hs : s.memWf = true) : t.memWf = true := by
  cases hi : isStore i with
  | true => exact exec_store_memWf hi h hs
  | false => exact (exec_writesAtMost hi h).memWf hs

/-- Settles O17, by the cases of the step: the host's accesses and the instruction keep the form, and every other event
of a boundary leaves both memories alone. -/
theorem canonicalMemory : Obligations.CanonicalMemory := by
  unfold Obligations.CanonicalMemory
  intro s t hs h
  have hw : s.hostWrites.memWf = true := State.memWf_hostWrites hs
  rcases step_next_cases h with ⟨-, rfl⟩ | ⟨-, -, -, rfl⟩ | ⟨-, -, -, -, rfl⟩ | ⟨-, -, -, -, i, u, -, hexec, rfl⟩ |
    ⟨-, -, -, rfl⟩ | ⟨-, -, op, i, u, -, -, hexec, rfl⟩ | ⟨-, -, -, rfl⟩
  · exact (State.memWf_congr rfl rfl).trans hw -- reset
  · exact (State.memWf_congr rfl rfl).trans hw -- stop request
  · exact (State.memWf_congr rfl rfl).trans hw -- interrupt entry
  · have hu : u.memWf = true := exec_memWf hexec hw -- fetched instruction
    exact (State.memWf_congr rfl rfl).trans hu
  · exact (State.memWf_congr rfl rfl).trans hw -- wait
  · have hu : u.memWf = true := exec_memWf hexec hw -- injected instruction
    exact (State.memWf_congr rfl rfl).trans hu
  · exact (State.memWf_congr rfl rfl).trans hw -- resume

/-- Settles O18: an empty memory is in canonical form, whatever its size. -/
theorem resetCanonicalMemory : Obligations.ResetCanonicalMemory := by
  unfold Obligations.ResetCanonicalMemory
  exact (State.memWf_iff State.reset).2 ⟨rfl, rfl⟩

/-! ## Who writes CS.IR -/

theorem Unchanged.writeBytes (l : List (Word × Byte)) (s : State) : Unchanged [] s (State.writeBytes l s) := by
  induction l generalizing s with
  | nil => exact .refl s
  | cons c rest ih => exact (Unchanged.writeByte s c.1 c.2).trans (ih _)

theorem Unchanged.writeCode (s : State) (a op : Word) : Unchanged [] s (s.writeCode a op) := .of_same

theorem Unchanged.writeCodes (l : List (Word × Word)) (s : State) : Unchanged [] s (State.writeCodes l s) := by
  induction l generalizing s with
  | nil => exact .refl s
  | cons c rest ih => exact (Unchanged.writeCode s c.1 c.2).trans (ih _)

/-- The host's direct accesses write memory only (R358, R363). -/
theorem Unchanged.hostWrites (s : State) : Unchanged [] s s.hostWrites := by
  unfold State.hostWrites
  split
  · exact .writeBytes _ s
  · exact (Unchanged.writeBytes _ s).trans (.writeCodes _ _)

theorem AReg.part_ne_ir (an : AReg) : AReg.part an ≠ .ir := by cases an <;> simp [AReg.part]

theorem Slot.part_ne_ir (k : Slot) : Slot.part k ≠ .ir := by cases k <;> simp [Slot.part]

theorem SReg.ir_not_mem_written (s : State) (k : SReg) : Part.ir ∉ SReg.written s k := by
  cases k with
  | sa => cases hsel : s.cs.sel <;> simp [SReg.written, hsel]
  | _ => simp [SReg.written]

/-- Only `rtir` has CS.IR in its list of writes (R33). -/
theorem eq_rtir_of_ir_mem_writesSpecial {s : State} {i : Instr} (h : Part.ir ∈ writesSpecial s i) : i = .rtir := by
  cases i with
  | rtir => rfl
  | mtsr rs k => exact absurd h (SReg.ir_not_mem_written s k)
  | _ =>
    unfold writesSpecial at h
    simp [(AReg.part_ne_ir _).symm, Slot.part_ne_ir] at h

theorem eq_rtir_of_ir_mem_mayWrite {s : State} {i : Instr} (h : Part.ir ∈ mayWrite s i) : i = .rtir := by
  apply eq_rtir_of_ir_mem_writesSpecial (s := s)
  simpa [mayWrite] using h

/-- An instruction that changes CS.IR is `rtir`, in a running processor, and clears it. -/
theorem exec_ir_cases {i : Instr} {s t : State} (h : exec i s = .next t) :
    t.cs.ir = s.cs.ir ∨ (i = .rtir ∧ s.run = .running ∧ t.cs.ir = false) := by
  by_cases hm : Part.ir ∈ mayWrite s i
  · obtain rfl := eq_rtir_of_ir_mem_mayWrite hm
    obtain ⟨hrun, -, rfl⟩ := execRtir_next_iff.1 h
    exact .inr ⟨rfl, hrun, rfl⟩
  · exact .inl ((instructionFrame i s t h).ir hm)

/-- Settles O19, by the cases of the step: reset and interrupt entry set CS.IR, an instruction changes it only as `rtir`
of a running processor, and no other event writes CS. -/
theorem interruptStateChanges : Obligations.InterruptStateChanges := by
  unfold Obligations.InterruptStateChanges
  intro s t h hne
  have hw : Unchanged [] s s.hostWrites := .hostWrites s
  have hir : s.hostWrites.cs.ir = s.cs.ir := hw.ir (by simp)
  have hrun : s.hostWrites.run = s.run := hw.run (by simp)
  have hpins : s.hostWrites.pins = s.pins := (hw.host (by simp)).2.1
  rw [← hir] at hne
  rcases step_next_cases h with ⟨hreset, rfl⟩ | ⟨-, -, -, rfl⟩ | ⟨-, -, -, -, rfl⟩ |
    ⟨hreset, -, -, -, i, u, hdecode, hexec, rfl⟩ | ⟨-, -, -, rfl⟩ | ⟨-, hstopped, op, i, u, -, -, hexec, rfl⟩ |
    ⟨-, -, -, rfl⟩
  · exact .inl ⟨rfl, .inl (hpins ▸ hreset)⟩ -- reset
  · exact absurd rfl hne -- stop request
  · exact .inl ⟨rfl, .inr rfl⟩ -- interrupt entry
  · obtain hsame | ⟨rfl, hrunning, hclear⟩ := exec_ir_cases hexec -- fetched instruction
    · exact absurd hsame hne
    · exact .inr ⟨hclear, hpins ▸ hreset, hrun ▸ hrunning, hw.cfg ▸ hdecode⟩
  · exact absurd rfl hne -- wait
  · obtain hsame | ⟨-, hrunning, -⟩ := exec_ir_cases hexec -- injected instruction
    · exact absurd hsame hne
    · exact absurd (hstopped.symm.trans hrunning) (by decide)
  · exact absurd rfl hne -- resume

/-! ## Reset, and the critical section -/

/-- Settles O13: `State.powerUp` writes out the values that R53 and R370 to R372 define. -/
theorem resetState : Obligations.ResetState := by
  unfold Obligations.ResetState
  exact ⟨fun _ _ => ⟨rfl, rfl, rfl, rfl, rfl, rfl, rfl, rfl, rfl, rfl⟩, rfl⟩

/-- A processor with CS.IE clear acknowledges no request (R34, R334). -/
theorem State.acknowledges_of_disabled {s : State} (h : s.cs.ie = false) : s.acknowledges = false := by
  simp [State.acknowledges, h]

/-- Settles O56: `scie` saves the enable in CS.IS and clears it, and `rsie` takes it from there. -/
theorem criticalSection : Obligations.CriticalSection := by
  unfold Obligations.CriticalSection
  intro s
  exact ⟨_, rfl, fun t' hie hsave => ⟨State.acknowledges_of_disabled hie, _, rfl, hsave⟩⟩

end Sys2Proof.Machine
end

section
/-! The memory operands: effective addresses (O25), what a data read gives (O24), who writes memory (O22), and what the
host's direct accesses leave in each byte and word (O16). -/

namespace Sys2Proof.Machine

/-! ## Effective addresses -/

theorem ofInt_sub_toNat (v w : Word) : BitVec.ofInt 16 (v.toNat - w.toNat) = v - w := by
  rw [sub_eq_add_neg, BitVec.ofInt_add, BitVec.ofInt_neg, BitVec.sub_eq_add_neg]
  simp

theorem ofNat_add_toNat (v w : Word) : BitVec.ofNat 16 (v.toNat + w.toNat) = v + w := by
  simp [BitVec.ofNat_add]

theorem ofNat_mul_toNat (v : Word) (n : Nat) : BitVec.ofNat 16 (v.toNat * n) = v * BitVec.ofNat 16 n := by
  simp [BitVec.ofNat_mul]

theorem Mode.eda_direct (f : BitVec 8) (z : Size) (s : State) :
    (Mode.direct f).eda z s = BitVec.ofNat 16 (z.bytes.toNat * f.toNat) := by
  simp [Mode.eda, ofNat_mul_toNat]

/-- The offset is signed and counts operands of the size (R171). -/
theorem Mode.eda_offset (ofs : BitVec 5) (an : AReg) (z : Size) (s : State) :
    (Mode.offset ofs an).eda z s = BitVec.ofInt 16 ((s.areg an).toNat + z.bytes.toNat * ofs.toInt) := by
  simp [Mode.eda, BitVec.ofInt_add, BitVec.ofInt_mul, BitVec.signExtend]

theorem Mode.eda_index (rx : GReg) (an : AReg) (z : Size) (s : State) :
    (Mode.index rx an).eda z s = BitVec.ofNat 16 ((s.areg an).toNat + z.bytes.toNat * (s.reg rx).toNat) := by
  simp [Mode.eda, BitVec.ofNat_add, BitVec.ofNat_mul]

/-- Settles O25: the sums and products of words are those of the numbers, modulo 2^16. -/
theorem effectiveAddresses : Obligations.EffectiveAddresses := by
  unfold Obligations.EffectiveAddresses
  intro s z f ofs rx an
  rw [ofInt_sub_toNat, ofNat_add_toNat, ofNat_add_toNat]
  exact ⟨Mode.eda_direct f z s, Mode.eda_offset ofs an z s, Mode.eda_index rx an z s, rfl, rfl, rfl, rfl, rfl, rfl, rfl,
    rfl, rfl⟩

/-! ## Data reads -/

theorem Byte.toWord_eq_append (b : Byte) : b.toWord = 0#8 ++ b := by
  apply BitVec.eq_of_toNat_eq
  rw [BitVec.toNat_append]
  simp only [Byte.toWord, BitVec.toNat_setWidth, BitVec.toNat_zero, Nat.zero_shiftLeft, Nat.zero_or]
  omega

theorem toNat_and_fffe (a : Word) : (a &&& 0xFFFE#16).toNat = 2 * (a.toNat / 2) := by
  have hhalf : (a.toNat &&& 0xFFFE) / 2 = a.toNat / 2 % 2 ^ 15 := by
    rw [Nat.and_div_two, ← Nat.and_two_pow_sub_one_eq_mod]
  have hbit : (a.toNat &&& 0xFFFE) % 2 = 0 := by
    simpa using Nat.and_mod_two_pow (a := a.toNat) (b := 0xFFFE) (n := 1)
  have hand : (a &&& 0xFFFE#16).toNat = a.toNat &&& 0xFFFE := BitVec.toNat_and a _
  omega

theorem State.toNat_shortBase_of_ignoreLsb {s : State} (h : s.cfg.misaligned = .ignoreLsb) (a : Word) :
    (s.shortBase a).toNat = 2 * (a.toNat / 2) := by
  simp only [State.shortBase, h, toNat_and_fffe]

theorem State.shortBase_of_controller {s : State} (h : s.cfg.misaligned = .controller) (a : Word) :
    s.shortBase a = a := by
  simp only [State.shortBase, h]

/-- A short at an even address starts there, under either setting (R76). -/
theorem State.shortBase_of_even (s : State) {a : Word} (ha : a.toNat % 2 = 0) : s.shortBase a = a := by
  cases hm : s.cfg.misaligned with
  | ignoreLsb =>
    have hbase := State.toNat_shortBase_of_ignoreLsb hm a
    bv_omega
  | controller => exact State.shortBase_of_controller hm a

theorem State.shortBase_of_odd {s : State} (h : s.cfg.misaligned = .ignoreLsb) {a : Word} (ha : a.toNat % 2 = 1) :
    s.shortBase a = a - 1 := by
  have hbase := State.toNat_shortBase_of_ignoreLsb h a
  bv_omega

/-- A short is the two bytes from its base on, low byte first (R73, R80). -/
theorem State.load_short_of_shortBase {s : State} {a b : Word} (h : s.shortBase a = b) :
    s.load .short a = s.readByte (b + 1) ++ s.readByte b := by
  subst h
  rfl

/-- Settles O24, by the base of the short: the address itself, or the address less one where bit 0 is ignored. -/
theorem readOperand : Obligations.ReadOperand := by
  unfold Obligations.ReadOperand
  intro s a
  refine ⟨Byte.toWord_eq_append _, fun heven => ?_, fun hodd hignore => ?_, fun _ hcontroller => ?_,
    fun _ => State.readByte_low, fun _ => State.readByte_high⟩
  · exact State.load_short_of_shortBase (s.shortBase_of_even heven)
  · rw [State.load_short_of_shortBase (State.shortBase_of_odd hignore hodd), BitVec.sub_add_cancel]
  · exact State.load_short_of_shortBase (State.shortBase_of_controller hcontroller a)

/-! ## Who writes memory -/

theorem WritesAtMost.sameMemory {ps : List Part} {s t : State} (h : WritesAtMost ps s t) : SameMemory s t :=
  .of_eq h.frame.cfg h.imem h.dmem

/-- Without a mapping a store to the data space leaves the instruction memory alone (R72, R88). -/
theorem State.imem_writeByte_of_unmapped {s : State} (h : s.cfg.imemWindows = []) (a : Word) (b : Byte) :
    (s.writeByte a b).imem = s.imem := by
  simp [State.writeByte, State.aliased, h, aliasedIn]

theorem State.imem_store_of_unmapped {s : State} (h : s.cfg.imemWindows = []) (z : Size) (a v : Word) :
    (s.store z a v).imem = s.imem := by
  cases z with
  | byte => exact State.imem_writeByte_of_unmapped h a _
  | short =>
    exact (State.imem_writeByte_of_unmapped (s := s.writeByte _ _) h _ _).trans
      (State.imem_writeByte_of_unmapped h _ _)

theorem State.imem_storeSlots_of_unmapped {s : State} (h : s.cfg.imemWindows = []) (z : Size) (l : List Slot) (a : Word) :
    (State.storeSlots z l a s).imem = s.imem := by
  induction l generalizing a s with
  | nil => rfl
  | cons k rest ih =>
    have hcfg : (s.store z (a - z.bytes) (s.slot k)).cfg = s.cfg := (Unchanged.store s z _ _).cfg
    exact (ih (hcfg.symm ▸ h) _).trans (State.imem_store_of_unmapped h z _ _)

theorem exec_store_imem {i : Instr} {s t : State} (hi : isStore i = true) (h : exec i s = .next t)
    (hunmapped : s.cfg.imemWindows = []) : t.imem = s.imem := by
  obtain ⟨z, m, rs, rfl⟩ | ⟨z, sel, an, rfl⟩ := storeForm_or_storeRgsForm_of_isStore hi
  · have hw := storeReg_next_writesAtMost ((exec_storeForm z m rs s).symm.trans h)
    exact hw.imem.trans (State.imem_store_of_unmapped hunmapped z _ _)
  · have hw := storeRgs_next_writesAtMost ((exec_storeRgsForm z sel an s).symm.trans h)
    exact hw.imem.trans (State.imem_storeSlots_of_unmapped hunmapped z _ _)

/-- Settles O22: an instruction that is no store writes neither memory, and a store without a mapping writes the data
memory only. -/
theorem onlyStoresWriteMemory : Obligations.OnlyStoresWriteMemory := by
  unfold Obligations.OnlyStoresWriteMemory
  intro i s t h
  refine ⟨fun hi => (exec_writesAtMost hi h).sameMemory, fun hunmapped => State.readCode_congr ?_⟩
  cases hi : isStore i with
  | true => exact exec_store_imem hi h hunmapped
  | false => exact (exec_writesAtMost hi h).imem

/-! ## The host's direct accesses -/

theorem State.pc_writeBytes (l : List (Word × Byte)) (s : State) : (State.writeBytes l s).pc = s.pc := by
  induction l generalizing s with
  | nil => rfl
  | cons c rest ih => exact ih _

theorem State.pc_writeCodes (l : List (Word × Word)) (s : State) : (State.writeCodes l s).pc = s.pc := by
  induction l generalizing s with
  | nil => rfl
  | cons c rest ih => exact ih _

theorem State.pc_hostWrites (s : State) : s.hostWrites.pc = s.pc := by
  unfold State.hostWrites
  split
  · exact State.pc_writeBytes _ s
  · exact (State.pc_writeCodes _ _).trans (State.pc_writeBytes _ s)

theorem State.hostWrites_of_running {s : State} (h : s.run = .running) :
    s.hostWrites = State.writeBytes s.pins.dataWrites s := by
  simp only [State.hostWrites, h]

theorem State.hostWrites_of_stopped {s : State} (h : s.run = .stopped) :
    s.hostWrites = State.writeCodes s.pins.codeWrites (State.writeBytes s.pins.dataWrites s) := by
  simp only [State.hostWrites, h]

theorem State.writeBytes_append (l l' : List (Word × Byte)) (s : State) :
    State.writeBytes (l ++ l') s = State.writeBytes l' (State.writeBytes l s) := by
  induction l generalizing s with
  | nil => rfl
  | cons c rest ih => exact ih _

theorem State.writeCodes_append (l l' : List (Word × Word)) (s : State) :
    State.writeCodes (l ++ l') s = State.writeCodes l' (State.writeCodes l s) := by
  induction l generalizing s with
  | nil => rfl
  | cons c rest ih => exact ih _

/-- Whether a data address is a byte of an opcode word depends on the parameters alone. -/
theorem State.inWord_congr {s t : State} (hc : t.cfg = s.cfg) (a w : Word) : t.inWord a w ↔ s.inWord a w := by
  simp only [State.inWord, State.aliased, hc]

/-- The last value listed for a data byte is what it reads as. -/
theorem State.readByte_writeBytes_last {s : State} (h : s.memWf = true) (l : List (Word × Byte)) {a : Word} (b : Byte)
    {l' : List (Word × Byte)} (hlast : ∀ c ∈ l', ¬ s.sameByte a c.1) :
    (State.writeBytes (l ++ (a, b) :: l') s).readByte a = b := by
  rw [State.writeBytes_append]
  have hcfg : (State.writeBytes l s).cfg = s.cfg := (Unchanged.writeBytes l s).cfg
  have hwf : (State.writeBytes l s).memWf = true := State.memWf_writeBytes h
  generalize State.writeBytes l s = u at hcfg hwf
  have hrest := StoresOnly.writeBytes l' (State.memWf_writeByte hwf a b)
  have hnone : ∀ c ∈ l'.map Prod.fst, ¬ (u.writeByte a b).sameByte a c := by
    intro c hc
    obtain ⟨d, hd, rfl⟩ := List.mem_map.1 hc
    rw [State.sameByte_congr (s := s) (t := u.writeByte a b) hcfg]
    exact hlast d hd
  calc (State.writeBytes l' (u.writeByte a b)).readByte a
      = (u.writeByte a b).readByte a := hrest.byte a hnone
    _ = b := State.readByte_writeByte_same hwf b (State.sameByte_refl u a)

/-- The last value listed for an opcode word is what it reads as. -/
theorem State.readCode_writeCodes_last {s : State} (h : s.memWf = true) (l : List (Word × Word)) {a : Word} (op : Word)
    {l' : List (Word × Word)} (hlast : ∀ c ∈ l', c.1 ≠ a) :
    (State.writeCodes (l ++ (a, op) :: l') s).readCode a = op := by
  rw [State.writeCodes_append]
  have hwf : (State.writeCodes l s).memWf = true := State.memWf_writeCodes h
  generalize State.writeCodes l s = u at hwf
  calc (State.writeCodes l' (u.writeCode a op)).readCode a
      = (u.writeCode a op).readCode a := State.readCode_writeCodes_other (State.memWf_writeCode hwf a op) hlast
    _ = op := by rw [State.readCode_writeCode hwf, if_pos rfl]

/-- What the host writes while the processor runs. -/
theorem hostWrites_running {s : State} (hs : s.memWf = true) (hrun : s.run = .running) :
    StoresOnly (s.pins.dataWrites.map Prod.fst) s s.hostWrites ∧
      ∀ (l l' : List (Word × Byte)) (a : Word) (b : Byte), s.pins.dataWrites = l ++ (a, b) :: l' →
        (∀ c ∈ l', ¬ s.sameByte a c.1) → s.hostWrites.readByte a = b := by
  rw [State.hostWrites_of_running hrun]
  refine ⟨StoresOnly.writeBytes _ hs, fun l l' a b hl hlast => ?_⟩
  rw [hl]
  exact State.readByte_writeBytes_last hs l b hlast

/-- A data byte that is no byte of a listed opcode word, after the host's accesses to a stopped processor. -/
theorem State.readByte_hostWrites_of_stopped {s : State} (hs : s.memWf = true) (hrun : s.run = .stopped) {a : Word}
    (ha : ∀ c ∈ s.pins.codeWrites, ¬ s.inWord a c.1) :
    s.hostWrites.readByte a = (State.writeBytes s.pins.dataWrites s).readByte a := by
  rw [State.hostWrites_of_stopped hrun]
  refine State.readByte_writeCodes_other (State.memWf_writeBytes hs) fun c hc => ?_
  rw [State.inWord_congr (Unchanged.writeBytes s.pins.dataWrites s).cfg]
  exact ha c hc

/-- Settles O16: of one list of writes the last value counts (`readByte_writeBytes_last`, `readCode_writeCodes_last`), and
each list leaves what it does not reach alone. -/
theorem hostWritesMemoryOnly : Obligations.HostWritesMemoryOnly := by
  unfold Obligations.HostWritesMemoryOnly
  rintro s w rfl hs
  have hdata := StoresOnly.writeBytes s.pins.dataWrites hs
  have hwf : (State.writeBytes s.pins.dataWrites s).memWf = true := State.memWf_writeBytes hs
  refine ⟨State.pc_hostWrites s, .hostWrites s, hostWrites_running hs, fun hrun => ⟨?_, ?_, ?_, ?_⟩⟩
  · intro l l' a op hl hlast
    rw [State.hostWrites_of_stopped hrun, hl]
    exact State.readCode_writeCodes_last hwf l op hlast
  · intro l l' a b hl hlast hcodes
    rw [State.readByte_hostWrites_of_stopped hs hrun hcodes, hl]
    exact State.readByte_writeBytes_last hs l b hlast
  · intro a hnone hcodes
    rw [State.readByte_hostWrites_of_stopped hs hrun hcodes]
    exact hdata.byte a (List.forall_mem_map.2 hnone)
  · intro a hcodes hnone
    rw [State.hostWrites_of_stopped hrun, State.readCode_writeCodes_other hwf hcodes]
    exact hdata.code a (List.forall_mem_map.2 hnone)

end Sys2Proof.Machine
end

section
/-! Register selections: what a load of a selection gives (O29), what a store of one leaves in memory (O30), and the two
together (O31). Member j of a list of slots is stored at `a - size * (j + 1)`, one after the other downwards; the facts
about that list are proved first, in the order of the stores, and then read from the low end upwards. -/

namespace Sys2Proof.Machine

/-! ## Spans -/

theorem spanOf_eq_ofNat (z : Size) (n : Nat) : spanOf z n = BitVec.ofNat 16 (z.bytes.toNat * n) :=
  (ofNat_mul_toNat z.bytes n).symm

theorem spanOf_add (z : Size) (m n : Nat) : spanOf z (m + n) = spanOf z m + spanOf z n := by
  simp only [spanOf, BitVec.ofNat_add, BitVec.mul_add]

theorem spanOf_one (z : Size) : spanOf z 1 = z.bytes := by cases z <;> rfl

theorem sub_spanOf_succ (z : Size) (a : Word) (n : Nat) : a - spanOf z (n + 1) = a - z.bytes - spanOf z n := by
  rw [spanOf_add, spanOf_one]
  bv_omega

/-- The place `i` from the low end of `n` members is the place `n - i` from the high end. -/
theorem sub_spanOf_add_spanOf (z : Size) (a : Word) {i n : Nat} (h : i ≤ n) :
    a - spanOf z n + spanOf z i = a - spanOf z (n - i) := by
  obtain ⟨m, rfl⟩ := Nat.exists_eq_add_of_le h
  rw [spanOf_add, Nat.add_sub_cancel_left]
  bv_omega

/-! ## Slots, and the end of the instruction -/

@[simp] theorem State.slot_advancePc (s : State) (k : Slot) : s.advancePc.slot k = s.slot k := by cases k <;> rfl

@[simp] theorem State.areg_advancePc (s : State) (an : AReg) : s.advancePc.areg an = s.areg an := by cases an <;> rfl

theorem State.slot_setAreg_of_not_isSlot (s : State) {an : AReg} {k : Slot} (h : AReg.isSlot an k = false) (v : Word) :
    (s.setAreg an v).slot k = s.slot k := by
  cases k with
  | gp r =>
    have hreg : AReg.isReg an r = false := by cases an <;> exact h
    simp [State.slot, State.reg_setAreg, hreg]
  | sa => exact State.setAreg_sa s an v
  | ta =>
    have hta : an ≠ .ta := by
      rintro rfl
      cases h
    simp [State.slot, State.ta_setAreg, hta]

theorem Unchanged.slot {s t : State} (h : Unchanged [] s t) (k : Slot) : t.slot k = s.slot k := by
  cases k with
  | gp r => exact h.reg r (by simp)
  | sa => exact h.sa (by simp)
  | ta => exact h.ta (by simp)

theorem nextPc_setAreg (s : State) (an : AReg) (v : Word) : nextPc (s.setAreg an v) = nextPc s := by cases an <;> rfl

theorem nextPc_setSlot (s : State) (k : Slot) (v : Word) : nextPc (s.setSlot k v) = nextPc s := by cases k <;> rfl

theorem nextPc_store (s : State) (z : Size) (a v : Word) : nextPc (s.store z a v) = nextPc s := by cases z <;> rfl

theorem nextPc_loadSlots (z : Size) (l : List Slot) (a : Word) (s : State) :
    nextPc (State.loadSlots z l a s) = nextPc s := by
  induction l generalizing a s with
  | nil => rfl
  | cons k rest ih => exact (ih _ _).trans (nextPc_setSlot s k _)

theorem nextPc_storeSlots (z : Size) (l : List Slot) (a : Word) (s : State) :
    nextPc (State.storeSlots z l a s) = nextPc s := by
  induction l generalizing a s with
  | nil => rfl
  | cons k rest ih => exact (ih _ _).trans (nextPc_store s z _ _)

/-! ## Loading a selection -/

/-- Settles O29: the loads give each member its value (`slot_loadSlots`), and the update of the address register, which is
none of the members, gives it its own. -/
theorem loadSelection : Obligations.LoadSelection := by
  unfold Obligations.LoadSelection
  intro z an sel s hsel hown
  rw [loadsItsAddress_loadRgsForm] at hown
  have hexec := loadRgs_next_iff (s := s).2 ⟨hsel, hown, rfl⟩
  have hw := WritesAtMost.of_loadRgs hexec
  refine ⟨_, (exec_loadRgsForm z an sel s).trans hexec, fun i hi => ?_, ?_, ?_, hw.frame, hw.sameMemory⟩
  · have hmember : AReg.isSlot an (selected z sel)[i] = false := by
      simpa using List.any_eq_false.1 hown _ (List.getElem_mem hi)
    rw [State.slot_advancePc, State.slot_setAreg_of_not_isSlot _ hmember,
      State.slot_loadSlots (selected_facts z sel).1 i hi, spanOf_eq_ofNat]
  · rw [State.areg_advancePc, State.areg_setAreg, spanOf_eq_ofNat]
  · rw [advancePc_pc, nextPc_setAreg, nextPc_loadSlots]

/-! ## What a load depends on -/

/-- Which bytes an access transfers depends on the parameters alone. -/
theorem State.touched_congr {s t : State} (hc : t.cfg = s.cfg) (z : Size) (a : Word) : t.touched z a = s.touched z a := by
  cases z with
  | byte => rfl
  | short => simp only [State.touched, State.shortBase, hc]

/-- Which addresses are separate depends on the parameters alone. -/
theorem State.separate_congr {s t : State} (hc : t.cfg = s.cfg) (l : List Word) : t.separate l ↔ s.separate l := by
  simp only [State.separate, State.sameByte_congr hc]

/-- A load gives the same where the bytes that its access transfers read the same. -/
theorem State.load_congr {s t : State} (hc : t.cfg = s.cfg) {z : Size} {a : Word}
    (h : ∀ b ∈ s.touched z a, t.readByte b = s.readByte b) : t.load z a = s.load z a := by
  cases z with
  | byte => simp only [State.load, h a (by simp [State.touched])]
  | short =>
    have hbase : t.shortBase a = s.shortBase a := by simp only [State.shortBase, hc]
    simp only [State.load, State.readShort, hbase, h (s.shortBase a) (by simp [State.touched]),
      h (s.shortBase a + 1) (by simp [State.touched])]

theorem SameMemory.load {s t : State} (h : SameMemory s t) (hc : t.cfg = s.cfg) (z : Size) (a : Word) :
    t.load z a = s.load z a :=
  State.load_congr hc fun b _ => h.byte b

theorem StoresOnly.trans_sameMemory {s t u : State} {l : List Word} (h : StoresOnly l s t) (h' : SameMemory t u) :
    StoresOnly l s u :=
  ⟨fun a ha => (h'.byte a).trans (h.byte a ha), fun w hw => (h'.code w).trans (h.code w hw)⟩

/-! ## The bytes of a selection -/

/-- The bytes that the stores of `n` slots below `a` reach, in the order of the stores (R95, R174). -/
def State.slotBytes (s : State) (z : Size) (n : Nat) (a : Word) : List Word :=
  (List.range n).flatMap fun j => s.touched z (a - spanOf z (j + 1))

theorem State.slotBytes_succ (s : State) (z : Size) (n : Nat) (a : Word) :
    s.slotBytes z (n + 1) a = s.touched z (a - z.bytes) ++ s.slotBytes z n (a - z.bytes) := by
  simp only [State.slotBytes, List.range_succ_eq_map, List.flatMap_cons, List.flatMap_map, Nat.succ_eq_add_one,
    sub_spanOf_succ]
  simp [spanOf]

theorem State.slotBytes_congr {s t : State} (hc : t.cfg = s.cfg) (z : Size) (n : Nat) (a : Word) :
    t.slotBytes z n a = s.slotBytes z n a := by
  simp only [State.slotBytes, State.touched_congr hc]

/-- The same bytes listed from the low end upwards. -/
theorem State.perm_slotBytes (s : State) (z : Size) (n : Nat) (a : Word) :
    ((List.range n).flatMap fun i => s.touched z (a - spanOf z n + spanOf z i)).Perm (s.slotBytes z n a) := by
  have hdown : (List.range n).reverse = (List.range n).map fun j => n - 1 - j := by
    simp [List.range_eq_range', List.reverse_range']
  have hplaces : ((List.range n).reverse.flatMap fun i => s.touched z (a - spanOf z n + spanOf z i)) =
      s.slotBytes z n a := by
    rw [hdown, List.flatMap_map, State.slotBytes]
    refine List.flatMap_congr fun j hj => ?_
    have hlt : j < n := List.mem_range.1 hj
    rw [sub_spanOf_add_spanOf z a (by omega), show n - (n - 1 - j) = j + 1 by omega]
  exact hplaces ▸ List.Perm.flatMap_right _ (List.reverse_perm _).symm

theorem State.separate_perm {s : State} {l l' : List Word} (h : l.Perm l') : s.separate l ↔ s.separate l' :=
  h.pairwise_iff fun hne hsame => hne (State.sameByte_symm hsame)

/-- A short access one size below another has its base one size below (R76). -/
theorem State.shortBase_sub_spanOf (s : State) (a : Word) (n : Nat) :
    s.shortBase (a - spanOf .short n) = s.shortBase a - spanOf .short n := by
  cases hm : s.cfg.misaligned with
  | ignoreLsb =>
    have hlow := State.toNat_shortBase_of_ignoreLsb hm (a - spanOf .short n)
    have hbase := State.toNat_shortBase_of_ignoreLsb hm a
    have hspan : (spanOf .short n).toNat = 2 * n % 65536 := by simp [spanOf, Size.bytes]
    bv_omega
  | controller => rw [State.shortBase_of_controller hm, State.shortBase_of_controller hm]

/-- Different members of a selection share no address. -/
theorem State.ne_of_mem_touched {s : State} {z : Size} {a x y : Word} {i j : Nat} (hi : i < 7) (hj : j < 7) (hij : i ≠ j)
    (hx : x ∈ s.touched z (a - spanOf z (i + 1))) (hy : y ∈ s.touched z (a - spanOf z (j + 1))) : x ≠ y := by
  cases z with
  | byte =>
    simp only [State.touched, List.mem_singleton, spanOf, Size.bytes] at hx hy
    bv_omega
  | short =>
    simp only [State.touched, State.shortBase_sub_spanOf, List.mem_cons, List.not_mem_nil, or_false] at hx hy
    simp only [spanOf, Size.bytes] at hx hy
    bv_omega

/-- Without a mapping the bytes of a selection are separate: seven members do not wrap around the data space. -/
theorem State.separate_slotBytes {s : State} (h : s.cfg.imemWindows = []) (z : Size) {n : Nat} (hn : n ≤ 7) (a : Word) :
    s.separate (s.slotBytes z n a) := by
  refine List.pairwise_flatMap.2 ⟨fun j _ => State.separate_touched h z _, ?_⟩
  refine List.Pairwise.imp_of_mem (fun {i j} hi hj hij x hx y hy => ?_) (List.nodup_range (n := n))
  rw [State.sameByte_iff_eq h]
  have hi7 : i < 7 := lt_of_lt_of_le (List.mem_range.1 hi) hn
  have hj7 : j < 7 := lt_of_lt_of_le (List.mem_range.1 hj) hn
  exact State.ne_of_mem_touched hi7 hj7 hij hx hy

/-! ## Storing a selection -/

/-- Stores of a list of slots reach the bytes of the selection. -/
theorem StoresOnly.storeSlots (z : Size) (l : List Slot) (a : Word) {s : State} (h : s.memWf = true) :
    StoresOnly (s.slotBytes z l.length a) s (State.storeSlots z l a s) := by
  induction l generalizing a s with
  | nil => exact ⟨fun _ _ => rfl, fun _ _ => rfl⟩
  | cons k rest ih =>
    have hcfg : (s.store z (a - z.bytes) (s.slot k)).cfg = s.cfg := (Unchanged.store s z _ _).cfg
    have hfirst := StoresOnly.store h z (a - z.bytes) (s.slot k)
    have hrest := ih (a - z.bytes) (State.memWf_store h z (a - z.bytes) (s.slot k))
    rw [State.slotBytes_congr hcfg] at hrest
    rw [List.length_cons, State.slotBytes_succ]
    exact hfirst.trans hrest hcfg

/-- Stores of a list of slots leave a load alone whose bytes they do not reach. -/
theorem State.load_storeSlots_other {z : Size} {l : List Slot} {a b : Word} {s : State} (h : s.memWf = true)
    (hne : ∀ x ∈ s.touched z b, ∀ y ∈ s.slotBytes z l.length a, ¬ s.sameByte x y) :
    (State.storeSlots z l a s).load z b = s.load z b :=
  State.load_congr (Unchanged.storeSlots z l a s).cfg fun x hx => (StoresOnly.storeSlots z l a h).byte x (hne x hx)

/-- Slot j of the list reads as it was stored, where the stored bytes are different bytes (R95, R174). -/
theorem State.load_storeSlots {z : Size} {l : List Slot} {a : Word} {s : State} (h : s.memWf = true)
    (hsep : s.separate (s.slotBytes z l.length a)) (j : Nat) (hj : j < l.length) :
    (State.storeSlots z l a s).load z (a - spanOf z (j + 1)) = z.kept (s.slot l[j]) := by
  induction l generalizing a s j with
  | nil => cases hj
  | cons k rest ih =>
    have hframe : Unchanged [] s (s.store z (a - z.bytes) (s.slot k)) := .store s z _ _
    have hwf : (s.store z (a - z.bytes) (s.slot k)).memWf = true := State.memWf_store h z _ _
    rw [List.length_cons, State.slotBytes_succ] at hsep
    obtain ⟨hfirst, hrest, hcross⟩ := List.pairwise_append.1 hsep
    simp only [State.storeSlots]
    cases j with
    | zero =>
      rw [Nat.zero_add, spanOf_one, State.load_storeSlots_other hwf, State.load_store h z _ hfirst,
        List.getElem_cons_zero]
      simpa only [State.touched_congr hframe.cfg, State.slotBytes_congr hframe.cfg, State.sameByte_congr hframe.cfg]
        using hcross
    | succ j =>
      rw [sub_spanOf_succ, List.getElem_cons_succ]
      refine (ih hwf ?_ j (Nat.lt_of_succ_lt_succ hj)).trans (congrArg z.kept (hframe.slot _))
      rw [State.slotBytes_congr hframe.cfg, State.separate_congr hframe.cfg]
      exact hrest

/-- Member i of the selection, at size * i above the low end: the stores go from the last member down to the first. -/
theorem State.load_storeSlots_reverse {z : Size} {l : List Slot} {a : Word} {s : State} (h : s.memWf = true)
    (hsep : s.separate (s.slotBytes z l.length a)) (i : Nat) (hi : i < l.length) :
    (State.storeSlots z l.reverse a s).load z (a - spanOf z l.length + spanOf z i) = z.kept (s.slot l[i]) := by
  rw [← List.length_reverse] at hsep
  have hload := State.load_storeSlots h hsep (l.length - 1 - i) (by rw [List.length_reverse]; omega)
  rw [sub_spanOf_add_spanOf z a hi.le, show l.length - i = l.length - 1 - i + 1 by omega, hload]
  simp only [List.getElem_reverse, show l.length - 1 - (l.length - 1 - i) = i by omega]

/-- Settles O30: the bytes listed upwards are those that the stores reach downwards (`perm_slotBytes`), each member reads
as stored, and the update of the address register comes after the stores. -/
theorem storeSelection : Obligations.StoreSelection := by
  unfold Obligations.StoreSelection
  rintro z an sel s low bytes hs hsel rfl rfl
  simp only [← spanOf_eq_ofNat]
  have hexec := storeRgs_next_iff (z := z) (an := an) (s := s).2 ⟨hsel, rfl⟩
  have hw := storeRgs_next_writesAtMost hexec
  have hbytes := s.perm_slotBytes z (selected z sel).length (s.areg an)
  have hstores := StoresOnly.storeSlots z (selected z sel).reverse (s.areg an) hs
  rw [List.length_reverse] at hstores
  refine ⟨_, (exec_storeRgsForm z sel an s).trans hexec, ?_, fun hsep i hi => ?_, ?_, ?_, ?_⟩
  · rw [State.areg_advancePc, State.areg_setAreg]
  · have hseparate : s.separate (s.slotBytes z (selected z sel).length (s.areg an)) :=
      hsep.elim (fun hunmapped => State.separate_slotBytes hunmapped z (selected_facts z sel).2.1 _)
        (State.separate_perm hbytes).1
    rw [hw.sameMemory.load hw.frame.cfg]
    exact State.load_storeSlots_reverse hs hseparate i hi
  · rw [advancePc_pc, nextPc_setAreg, nextPc_storeSlots]
  · exact (Unchanged.storeSlots z _ _ s).trans hw.frame
  · exact (hstores.mono fun b hb => hbytes.mem_iff.2 hb).trans_sameMemory hw.sameMemory

/-! ## Storing a selection and loading it back -/

/-- Settles O31: the load of O29 reads from the low end that the store of O30 left in An, member by member what that store
put there. -/
theorem selectionPushPop : Obligations.SelectionPushPop := by
  unfold Obligations.SelectionPushPop
  rintro z an sel s bytes hs hsel hown rfl
  obtain ⟨t, hstore, han, hstored, -, hframe, -⟩ := storeSelection z an sel s _ _ hs hsel rfl rfl
  refine ⟨t, hstore, fun t' hcfg hmem han' => ?_⟩
  obtain ⟨u, hload, hmembers, hup, -⟩ := loadSelection z an sel t' hsel hown
  rw [han', han] at hmembers hup
  refine ⟨u, hload, by rw [hup, BitVec.sub_add_cancel], fun hsep k hk => ?_⟩
  obtain ⟨i, hi, rfl⟩ := List.getElem_of_mem hk
  rw [hmembers i hi, hmem.load hcfg]
  refine hstored (hsep.imp_right fun hdown => ?_) i hi
  simp only [← spanOf_eq_ofNat] at hdown ⊢
  exact (State.separate_perm (s.perm_slotBytes z _ (s.areg an))).2 hdown

end Sys2Proof.Machine
end

section
/-! The two round trips of the encoding: encoding what the decoder reads (O2), decoding what the encoder writes (O1). Both
are proved on the five groups of a word, one lemma for each part of the decoder. -/

namespace Sys2Proof

/-! ## The lines of the decoder by op[4:0] (R104) -/

theorem bv3_cases (n : BitVec 3) : n = 0b000#3 ∨ n = 0b001#3 ∨ n = 0b010#3 ∨ n = 0b011#3 ∨ n = 0b100#3 ∨ n = 0b101#3 ∨
    n = 0b110#3 ∨ n = 0b111#3 := by revert n; decide

/-- op[4:3] of the load/store groups (R104). -/
def LdSt.bits : LdSt → BitVec 2
  | .ldbt => 0b00#2 | .ldsh => 0b01#2 | .stbt => 0b10#2 | .stsh => 0b11#2

theorem LdSt.exists_bits (c : BitVec 2) : ∃ k : LdSt, c = k.bits := by
  rcases bv2_cases c with rfl | rfl | rfl | rfl
  · exact ⟨.ldbt, rfl⟩
  · exact ⟨.ldsh, rfl⟩
  · exact ⟨.stbt, rfl⟩
  · exact ⟨.stsh, rfl⟩

/-- The lines of R104: direct and indirect loads and stores; `jump` and `jpsr` with a bit of the address in op[4]; `siah`;
the implied group; `move` with the sign of its constant in op[4]; the register forms; the lines with a byte field. -/
theorem opcode_lines (o : BitVec 5) :
    (∃ c : BitVec 2, o = c ++ 0b000#3) ∨ (∃ c : BitVec 2, o = c ++ 0b100#3) ∨ (∃ c : BitVec 1, o = c ++ 0b0001#4) ∨
    (∃ c : BitVec 1, o = c ++ 0b1001#4) ∨ o = 0b00101#5 ∨ o = 0b01101#5 ∨ (∃ c : BitVec 1, o = c ++ 0b0011#4) ∨
    (∃ ooo : BitVec 3, o = ooo ++ 0b10#2) ∨
    o ∈ [0b10101#5, 0b11101#5, 0b01011#5, 0b11011#5, 0b00111#5, 0b01111#5, 0b10111#5, 0b11111#5] := by
  revert o; decide

section
variable {e : Encoding} {g : Groups} {k : LdSt} {ooo : BitVec 3}

theorem decodeGroups_direct (ho : g.o = k.bits ++ 0b000#3) : decodeGroups e g = decodeDirect k g := by
  unfold decodeGroups
  rw [ho]
  cases k <;> rfl

theorem decodeGroups_indirect (ho : g.o = k.bits ++ 0b100#3) : decodeGroups e g = decodeIndirect e k g := by
  unfold decodeGroups
  rw [ho]
  cases k <;> rfl

theorem decodeGroups_register (ho : g.o = ooo ++ 0b10#2) : decodeGroups e g = decodeRegister e ooo g := by
  rcases bv3_cases ooo with rfl | rfl | rfl | rfl | rfl | rfl | rfl | rfl <;> simp [decodeGroups, ho]

/-! ## Encode of decode -/

/-- The decoder's answer `r` keeps every bit of the groups `g`: the instruction that it names, if it names one, is
well-formed and has these groups. -/
def ReadsBack (e : Encoding) (g : Groups) (r : Decoded) : Prop :=
  ∀ i, r = .ok i → encodeGroups e i = g ∧ i.wf = true

@[simp] theorem readsBack_ok {i : Instr} : ReadsBack e g (.ok i) ↔ encodeGroups e i = g ∧ i.wf = true := by
  simp [ReadsBack]

@[simp] theorem readsBack_error {r : DecodeReject} : ReadsBack e g (.error r) := by
  simp [ReadsBack]

theorem readsBack_ite {c : Prop} [Decidable c] {r r' : Decoded} (h : c → ReadsBack e g r)
    (h' : ¬ c → ReadsBack e g r') : ReadsBack e g (if c then r else r') := by
  split
  next hc => exact h hc
  next hc => exact h' hc

theorem readsBack_decodeDirect (ho : g.o = k.bits ++ 0b000#3) : ReadsBack e g (decodeDirect k g) := by
  have hg := g.ofDirect_da8
  rw [ho] at hg
  cases k <;> simpa [decodeDirect, encodeGroups, Instr.wf, LdSt.bits] using hg

theorem readsBack_decodeOffset (ho : g.o = k.bits ++ 0b100#3) (hb : g.b.extractLsb' 2 1 = 0) :
    ReadsBack e g (decodeOffset e k g) := by
  have hg := g.ofOffset_do5 hb
  rw [ho] at hg
  cases k <;> simpa [decodeOffset, encodeGroups, Instr.wf, LdSt.bits] using hg

theorem readsBack_decodeIndex (ho : g.o = k.bits ++ 0b100#3) (hb : g.b.extractLsb' 2 1 ≠ 0) (hhi : g.hi = 0b00#2) :
    ReadsBack e g (decodeIndex e k g) := by
  have hg := g.ofMode_an hb
  rw [ho, hhi] at hg
  cases k <;> simpa [decodeIndex, encodeGroups, Instr.wf, LdSt.bits] using hg

theorem readsBack_decodeUpdating (ho : g.o = k.bits ++ 0b100#3) (hb : g.b.extractLsb' 2 1 ≠ 0) (hhi : g.hi = 0b01#2) :
    ReadsBack e g (decodeUpdating e k g) := by
  have hg := g.ofMode_an hb
  rw [ho, hhi] at hg
  unfold decodeUpdating
  split_ifs with ha ha ha
  iterate 3
    · rw [ha] at hg
      cases k <;> simpa [encodeGroups, Instr.wf, LdSt.bits] using hg
  · exact readsBack_error

theorem reverseFlags_eq_zero_iff (f : BitVec 7) : reverseFlags f = 0#7 ↔ f = 0#7 := not_iff_not.1 (reverseFlags_ne_zero f)

theorem readsBack_decodeRgs (ho : g.o = k.bits ++ 0b100#3) (hb : g.b.extractLsb' 2 1 ≠ 0)
    (hhi : g.hi.extractLsb' 1 1 ≠ 0) : ReadsBack e g (decodeRgs e k g) := by
  have hg := g.ofFlags_flags7 hb hhi
  rw [ho] at hg
  refine readsBack_ite (fun _ => readsBack_error) fun hsel => ?_
  cases k <;>
    simpa [encodeGroups, Instr.wf, LdSt.bits, selectionWf, reverseFlags_eq_zero_iff] using And.intro hg hsel

theorem readsBack_decodeIndirect (ho : g.o = k.bits ++ 0b100#3) : ReadsBack e g (decodeIndirect e k g) := by
  unfold decodeIndirect
  split_ifs with hb h0 h1
  · exact readsBack_decodeOffset ho hb
  · exact readsBack_decodeIndex ho hb h0
  · exact readsBack_decodeUpdating ho hb h1
  · have htop : ∀ hi : BitVec 2, hi ≠ 0b00#2 → hi ≠ 0b01#2 → hi.extractLsb' 1 1 ≠ 0 := by decide
    exact readsBack_decodeRgs ho hb (htop _ h0 h1)

theorem readsBack_decodeBranch0 (ho : g.o = 0b10101#5) : ReadsBack e g (decodeBranch0 g) := by
  have hg := g.ofByteField_byteField
  rcases bv3_cases g.d with hd | hd | hd | hd | hd | hd | hd | hd <;>
    simpa [decodeBranch0, encodeGroups, Instr.wf, ho, hd] using hg

theorem readsBack_decodeBranch1 (ho : g.o = 0b11101#5) : ReadsBack e g (decodeBranch1 g) := by
  have hg := g.ofByteField_byteField
  rcases bv3_cases g.d with hd | hd | hd | hd | hd | hd | hd | hd <;>
    simpa [decodeBranch1, encodeGroups, Instr.wf, ho, hd] using hg

/-- With op[15:9] = 0 the word is its op[8:5] and op[4:0] (R119, R120). -/
theorem Groups.ofCode4_iah4 (g : Groups) (h : g.highSevenZero = true) : Groups.ofCode4 g.iah4 g.o = g := by
  obtain ⟨hi, a, b, d, o⟩ := g
  simp only [Groups.highSevenZero, Groups.iah4, Groups.ofCode4, Groups.mk.injEq, Bool.and_eq_true, beq_iff_eq] at h ⊢
  obtain ⟨⟨rfl, rfl⟩, hb⟩ := h
  simp only [true_and, and_true]
  revert b d; decide

theorem readsBack_ofCode4 {i : Instr} {c : BitVec 4} {o : BitVec 5} (ho : g.o = o) (hz : g.highSevenZero = true)
    (hi : encodeGroups e i = .ofCode4 c o) (hwf : i.wf = true) (hc : g.iah4 = c) : ReadsBack e g (.ok i) := by
  have hg := g.ofCode4_iah4 hz
  rw [hc, ho, ← hi] at hg
  exact readsBack_ok.2 ⟨hg, hwf⟩

theorem readsBack_decodeSiah (ho : g.o = 0b00101#5) : ReadsBack e g (decodeSiah g) :=
  readsBack_ite (fun hz => readsBack_ofCode4 ho hz rfl rfl rfl) fun _ => readsBack_error

theorem readsBack_decodeImplied (ho : g.o = 0b01101#5) : ReadsBack e g (decodeImplied e g) := by
  unfold decodeImplied
  refine readsBack_ite (fun hz => ?_) fun _ => readsBack_error
  iterate 13 refine readsBack_ite (readsBack_ofCode4 ho hz rfl rfl) fun _ => ?_
  exact readsBack_error

theorem readsBack_decodePrefix00 (hhi : g.hi = 0b00#2) (ho : g.o = ooo ++ 0b10#2) :
    ReadsBack e g (decodePrefix00 e ooo g) := by
  obtain ⟨_, a, b, d, _⟩ := g
  obtain ⟨rfl, rfl⟩ := And.intro hhi ho
  rcases bv3_cases ooo with rfl | rfl | rfl | rfl | rfl | rfl | rfl | rfl <;> cases hslot : e.iorbSlot <;>
    simp [decodePrefix00, encodeGroups, Instr.wf, hslot, IorbSlot.iorbBits, IorbSlot.xorbBits]

theorem readsBack_decodePrefix01 (hhi : g.hi = 0b01#2) (ho : g.o = ooo ++ 0b10#2) :
    ReadsBack e g (decodePrefix01 ooo g) := by
  obtain ⟨_, a, b, d, _⟩ := g
  obtain ⟨rfl, rfl⟩ := And.intro hhi ho
  rcases bv3_cases ooo with rfl | rfl | rfl | rfl | rfl | rfl | rfl | rfl <;> by_cases hd : d = 0b000#3 <;>
    simp [decodePrefix01, encodeGroups, Instr.wf, hd]

theorem readsBack_decodeMtsrConst (hhi : g.hi = 0b10#2) (ho : g.o = 0b11110#5) : ReadsBack e g (decodeMtsrConst e g) := by
  have hg := g.ofC7_c7 hhi
  have hn := Perm4.at_placeOf e.srLow g.low2
  rw [ho, ← hn] at hg
  rcases bv2_cases (e.srLow.placeOf g.low2) with hk | hk | hk | hk <;> rw [hk] at hg <;>
    simpa [decodeMtsrConst, SReg.ofLow, hk, encodeGroups, Instr.wf] using hg

theorem readsBack_decodePrefix10 (hhi : g.hi = 0b10#2) (ho : g.o = ooo ++ 0b10#2) :
    ReadsBack e g (decodePrefix10 e ooo g) := by
  refine readsBack_ite ?mlhu fun _ => readsBack_ite ?mlhs fun _ => readsBack_ite ?comp fun _ =>
    readsBack_ite ?compNeg fun _ => readsBack_ite ?adsp fun _ => readsBack_ite ?mtsr fun _ => readsBack_error
  case mtsr =>
    rintro rfl
    exact readsBack_decodeMtsrConst hhi ho
  all_goals
    obtain ⟨_, a, b, d, _⟩ := g
    obtain ⟨rfl, rfl⟩ := And.intro hhi ho
    rintro rfl
  case mlhu | mlhs => simp [encodeGroups, Instr.wf]
  case comp =>
    refine readsBack_ite ?_ fun _ => readsBack_ite ?_ fun _ => readsBack_error <;>
    · rintro rfl
      simp [encodeGroups, Instr.wf]
  case compNeg =>
    simpa [encodeGroups, Instr.wf] using
      And.intro (BitVec.extractLsb'_append_eq_left (a := a) (b := b)) (BitVec.extractLsb'_append_eq_right (a := a) (b := b))
  case adsp => simpa [encodeGroups, Instr.wf] using Groups.ofC7_c7 ⟨0b10#2, a, b, d, 0b11010#5⟩ rfl

theorem readsBack_decodeConstCount (hhi : g.hi = 0b11#2) (han : g.an = 0b10#2) (ho : g.o = ooo ++ 0b10#2) :
    ReadsBack e g (decodeConstCount ooo g) := by
  have hg := g.ofCount4_count4 hhi han
  rcases bv3_cases ooo with rfl | rfl | rfl | rfl | rfl | rfl | rfl | rfl <;> rw [ho] at hg <;>
    simpa [decodeConstCount, encodeGroups, Instr.wf] using hg

theorem readsBack_decodeDyadic (hhi : g.hi = 0b11#2) (ho : g.o = ooo ++ 0b10#2) :
    ReadsBack e g (decodeDyadic e ooo g) := by
  obtain ⟨_, a, b, d, _⟩ := g
  obtain ⟨rfl, rfl⟩ := And.intro hhi ho
  refine readsBack_ite ?_ fun _ => readsBack_ite ?_ fun _ => ?_
  · rintro ⟨rfl, rfl⟩
    simp [encodeGroups, Instr.wf]
  · rintro ⟨rfl, rfl⟩
    simp [encodeGroups, Instr.wf]
  · split_ifs <;> simp_all [encodeGroups, Instr.wf]

theorem readsBack_decodeRegister (ho : g.o = ooo ++ 0b10#2) : ReadsBack e g (decodeRegister e ooo g) := by
  refine readsBack_ite (readsBack_decodePrefix00 · ho) fun h0 => readsBack_ite (readsBack_decodePrefix01 · ho) fun h1 =>
    readsBack_ite (readsBack_decodePrefix10 · ho) fun h2 => ?_
  have hhi : g.hi = 0b11#2 := by simpa [h0, h1, h2] using bv2_cases g.hi
  exact readsBack_ite (readsBack_decodeConstCount hhi · ho) fun _ => readsBack_decodeDyadic hhi ho

/-- The sign of the constant of `move` stands apart from its low byte (R121). -/
theorem encodeGroups_moveConst (c : BitVec 1) (f : BitVec 8) (rd : GReg) :
    encodeGroups e (.moveConst (c ++ f) rd) = .ofByteField f rd.num (c ++ 0b0011#4) :=
  congrArg₂ (fun low sign => Groups.ofByteField low rd.num (sign ++ 0b0011#4))
    (BitVec.extractLsb'_append_eq_right (a := c) (b := f)) (BitVec.extractLsb'_append_eq_left (a := c) (b := f))

/-- Whatever the decoder answers keeps every bit of the word, line by line of R104. -/
theorem readsBack_decodeGroups (e : Encoding) (g : Groups) : ReadsBack e g (decodeGroups e g) := by
  have hbyte := g.ofByteField_byteField
  have hia := g.ofIa12_ia12
  rcases opcode_lines g.o with ⟨c, ho⟩ | ⟨c, ho⟩ | ⟨c, ho⟩ | ⟨c, ho⟩ | ho | ho | ⟨c, ho⟩ | ⟨ooo, ho⟩ | ho
  · obtain ⟨k, rfl⟩ := LdSt.exists_bits c
    rw [decodeGroups_direct ho]
    exact readsBack_decodeDirect ho
  · obtain ⟨k, rfl⟩ := LdSt.exists_bits c
    rw [decodeGroups_indirect ho]
    exact readsBack_decodeIndirect ho
  iterate 2
    · rcases bv1_cases c with rfl | rfl <;> rw [ho] at hia <;> simpa [decodeGroups, ho, encodeGroups, Instr.wf] using hia
  · simpa [decodeGroups, ho] using readsBack_decodeSiah ho
  · simpa [decodeGroups, ho] using readsBack_decodeImplied ho
  · rcases bv1_cases c with rfl | rfl <;> rw [ho] at hbyte <;>
      simpa [decodeGroups, ho, encodeGroups_moveConst, Instr.wf] using hbyte
  · rw [decodeGroups_register ho]
    exact readsBack_decodeRegister ho
  · simp only [List.mem_cons, List.not_mem_nil, or_false] at ho
    rcases ho with ho | ho | ho | ho | ho | ho | ho | ho
    · simpa [decodeGroups, ho] using readsBack_decodeBranch0 ho
    · simpa [decodeGroups, ho] using readsBack_decodeBranch1 ho
    all_goals simpa [decodeGroups, ho, encodeGroups, Instr.wf] using hbyte

end

/-- Settles O2: the groups of the word are those of the instruction (`readsBack_decodeGroups`), and a word is made up of its
groups. -/
theorem encodeOfDecode : Obligations.EncodeOfDecode := by
  unfold Obligations.EncodeOfDecode
  intro e op i h
  obtain ⟨hgroups, hwf⟩ := readsBack_decodeGroups e (.ofWord op) i h
  exact ⟨by rw [encode, hgroups, Groups.toWord_ofWord], hwf⟩

end Sys2Proof
end

section
/-! Decode of encode (O1): the fields of the groups that the encoder builds, and what the decoder reads from them. -/

namespace Sys2Proof

/-! ## The groups that the encoder builds -/

section
variable (f : BitVec 8) (ofs : BitVec 5) (sel : BitVec 7) (c : BitVec 4) (hi an : BitVec 2) (a d : BitVec 3) (o : BitVec 5)

@[simp] theorem Groups.ofByteField_o : (Groups.ofByteField f d o).o = o := rfl
@[simp] theorem Groups.ofByteField_d : (Groups.ofByteField f d o).d = d := rfl
@[simp] theorem Groups.ofDirect_o : (Groups.ofDirect f d o).o = o := rfl
@[simp] theorem Groups.ofDirect_d : (Groups.ofDirect f d o).d = d := rfl
@[simp] theorem Groups.ofOffset_o : (Groups.ofOffset ofs an d o).o = o := rfl
@[simp] theorem Groups.ofOffset_d : (Groups.ofOffset ofs an d o).d = d := rfl
@[simp] theorem Groups.ofMode_o : (Groups.ofMode hi a an d o).o = o := rfl
@[simp] theorem Groups.ofMode_d : (Groups.ofMode hi a an d o).d = d := rfl
@[simp] theorem Groups.ofMode_a : (Groups.ofMode hi a an d o).a = a := rfl
@[simp] theorem Groups.ofMode_hi : (Groups.ofMode hi a an d o).hi = hi := rfl
@[simp] theorem Groups.ofFlags_o : (Groups.ofFlags sel an o).o = o := rfl
@[simp] theorem Groups.ofIa12_o (ia : BitVec 12) : (Groups.ofIa12 ia c).o = ia.extractLsb' 0 1 ++ c := rfl
@[simp] theorem Groups.ofCode4_o : (Groups.ofCode4 c o).o = o := rfl
@[simp] theorem Groups.ofC7_o : (Groups.ofC7 sel an o).o = o := rfl
@[simp] theorem Groups.ofC7_hi : (Groups.ofC7 sel an o).hi = 0b10#2 := rfl
@[simp] theorem Groups.ofCount4_o : (Groups.ofCount4 c d o).o = o := rfl
@[simp] theorem Groups.ofCount4_d : (Groups.ofCount4 c d o).d = d := rfl
@[simp] theorem Groups.ofCount4_hi : (Groups.ofCount4 c d o).hi = 0b11#2 := rfl

/-- op[10] is 0 in the offset form and 1 in the other indirect forms (R111 to R116). -/
@[simp] theorem Groups.ofOffset_op10 : (Groups.ofOffset ofs an d o).b.extractLsb' 2 1 = 0#1 := top1_append 0#1 an
@[simp] theorem Groups.ofMode_op10 : (Groups.ofMode hi a an d o).b.extractLsb' 2 1 = 1#1 := top1_append 1#1 an
@[simp] theorem Groups.ofFlags_op10 : (Groups.ofFlags sel an o).b.extractLsb' 2 1 = 1#1 := top1_append 1#1 an

/-- op[15] is 1 in a register selection (R116). -/
theorem Groups.ofFlags_hi_ne : (Groups.ofFlags sel an o).hi ≠ 0b00#2 ∧ (Groups.ofFlags sel an o).hi ≠ 0b01#2 := by
  simp only [Groups.ofFlags]; revert sel; decide

@[simp] theorem Groups.highSevenZero_ofCode4 : (Groups.ofCode4 c o).highSevenZero = true := by
  simp only [Groups.highSevenZero, Groups.ofCode4]; revert c; decide

@[simp] theorem Groups.an_ofCount4 : (Groups.ofCount4 c d o).an = 0b10#2 := by
  simp only [Groups.an, Groups.ofCount4]; revert c; decide

end

/-! ## The free cells of the table of R125 -/

/-- No free cell is in the columns of the constant counts, op[9:8] = 10. -/
theorem DyadicCell.low2_ne (c : DyadicCell) : c.ggg.extractLsb' 0 2 ≠ 0b10#2 := by
  obtain ⟨ggg, ooo, hfree⟩ := c
  revert ggg ooo; decide

theorem DyadicCell.ne_of_not_free (c : DyadicCell) {ggg ooo : BitVec 3} (h : freeCell ggg ooo = false) :
    ¬ (ggg = c.ggg ∧ ooo = c.ooo) := by
  rintro ⟨rfl, rfl⟩
  simp [c.free] at h

theorem Encoding.sxsh_ne_sxbt (e : Encoding) : ¬ (e.sxsh.ggg = e.sxbt.ggg ∧ e.sxsh.ooo = e.sxbt.ooo) :=
  fun ⟨hggg, hooo⟩ => e.cellsDiffer ⟨hggg.symm, hooo.symm⟩

/-! ## Decode of encode -/

theorem decodeGroups_encodeGroups (e : Encoding) (i : Instr) (hwf : i.wf = true) :
    decodeGroups e (encodeGroups e i) = .ok i := by
  cases i with
  | ldbtDirect _ _ | ldshDirect _ _ | stbtDirect _ _ | stshDirect _ _ =>
    simp [encodeGroups, decodeGroups, decodeDirect, Groups.da8_ofDirect]
  | ldbtOffset _ _ _ | ldshOffset _ _ _ | stbtOffset _ _ _ | stshOffset _ _ _ =>
    simp [encodeGroups, decodeGroups, decodeIndirect, decodeOffset, Groups.do5_ofOffset, Groups.an_ofOffset]
  | ldbtIndex _ _ _ | ldshIndex _ _ _ | stbtIndex _ _ _ | stshIndex _ _ _ =>
    simp [encodeGroups, decodeGroups, decodeIndirect, decodeIndex, Groups.an_ofMode]
  | ldbtPostInc _ _ | ldshPostInc _ _ | stbtPostInc _ _ | stshPostInc _ _
  | ldbtPreDec _ _ | ldshPreDec _ _ | stbtPreDec _ _ | stshPreDec _ _
  | ldbtPostUpd _ _ | ldshPostUpd _ _ | stbtPostUpd _ _ | stshPostUpd _ _ =>
    simp [encodeGroups, decodeGroups, decodeIndirect, decodeUpdating, Groups.an_ofMode]
  | ldbtRgs _ _ | ldshRgs _ _ | stbtRgs _ _ | stshRgs _ _ =>
    simpa [encodeGroups, decodeGroups, decodeIndirect, decodeRgs, Groups.an_ofFlags, Groups.flags7_ofFlags,
      Groups.ofFlags_hi_ne, reverseFlags_eq_zero_iff, Instr.wf, selectionWf] using hwf
  | jumpIa12 ia | jpsrIa12 ia =>
    rcases bv1_cases (ia.extractLsb' 0 1) with hia | hia <;>
      simp [encodeGroups, decodeGroups, hia, Groups.ia12_ofIa12]
  | brnc _ | brcr _ | brno _ | brof _ | brnz _ | brzr _ | brps _ | brng _ =>
    simp [encodeGroups, decodeGroups, decodeBranch0, Groups.byteField_ofByteField]
  | brls _ | brhi _ | brlo _ | brge _ | brle _ | brgt _ | bral _ | brlc _ =>
    simp [encodeGroups, decodeGroups, decodeBranch1, Groups.byteField_ofByteField]
  | siah _ => simp [encodeGroups, decodeGroups, decodeSiah, Groups.iah4_ofCode4]
  | jumpTa | jpsrTa | rtsr | rtir | stop | rspc | stie | clie | rsie | scie | stas | clas | svpc =>
    cases hcode : e.svpc <;>
      simp [encodeGroups, decodeGroups, decodeImplied, Groups.iah4_ofCode4, hcode, SvpcCode.bits]
  | moveConst c _ =>
    have hc : c.extractLsb' 8 1 ++ c.extractLsb' 0 8 = c := BitVec.extractLsb'_append_extractLsb'
    rcases bv1_cases (c.extractLsb' 8 1) with hsign | hsign <;> rw [hsign] at hc <;>
      simpa [encodeGroups, decodeGroups, Groups.byteField_ofByteField, hsign] using hc
  | addh _ _ | subfConst _ _ | addtConst _ _ | andbConst _ _ | iorbConst _ _ | compPos _ _ =>
    simp [encodeGroups, decodeGroups, Groups.byteField_ofByteField]
  | subf _ _ _ | addt _ _ _ | subc _ _ _ | addc _ _ _ | mult _ _ _ | andb _ _ _ | iorb _ _ _ | xorb _ _ _ =>
    cases hslot : e.iorbSlot <;>
      simp [encodeGroups, decodeGroups, decodeRegister, decodePrefix00, hslot, IorbSlot.iorbBits, IorbSlot.xorbBits]
  | shlz _ _ _ | shru _ _ _ | shlf _ _ _ | shrs _ _ _ | btcl _ _ _ | btts _ _ | btst _ _ _ | bttg _ _ _ =>
    simp [encodeGroups, decodeGroups, decodeRegister, decodePrefix01]
  | mlhu _ _ _ | mlhs _ _ _ | comp _ _ | cmpc _ _ =>
    simp [encodeGroups, decodeGroups, decodeRegister, decodePrefix10]
  | compNeg c _ =>
    have hc : c.extractLsb' 3 3 ++ c.extractLsb' 0 3 = c := BitVec.extractLsb'_append_extractLsb'
    simp [encodeGroups, decodeGroups, decodeRegister, decodePrefix10, hc]
  | adsp _ _ =>
    simp [encodeGroups, decodeGroups, decodeRegister, decodePrefix10, Groups.c7_ofC7, Groups.low2_ofC7]
  | mtsrConstCc _ | mtsrConstCs _ | mtsrConstLc _ | mtsrConstAu _ =>
    simp [encodeGroups, decodeGroups, decodeRegister, decodePrefix10, decodeMtsrConst, Groups.c7_ofC7, Groups.low2_ofC7]
  | shlzConst _ _ | shruConst _ _ | shlfConst _ _ | shrsConst _ _ | btclConst _ _ | bttsConst _ _ | btstConst _ _
  | bttgConst _ _ =>
    simp [encodeGroups, decodeGroups, decodeRegister, decodeConstCount, Groups.count4_ofCount4]
  | sxbt _ _ =>
    rw [decodeGroups_register (ooo := e.sxbt.ooo) rfl]
    simp [encodeGroups, decodeRegister, Groups.an, DyadicCell.low2_ne, decodeDyadic]
  | sxsh _ _ =>
    rw [decodeGroups_register (ooo := e.sxsh.ooo) rfl]
    simp [encodeGroups, decodeRegister, Groups.an, DyadicCell.low2_ne, decodeDyadic, e.sxsh_ne_sxbt]
  | move _ _ | negt _ _ | absl _ _ | invt _ _ | clzr _ _ | sbcf _ _ | adcf _ _ | cpcf _ | mfdp _ | mtdp _ | mfsr _ _
  | mtsr _ _ =>
    simp [encodeGroups, decodeGroups, decodeRegister, Groups.an, decodeDyadic, DyadicCell.ne_of_not_free, freeCell]

/-- Settles O1: the decoder reads each instruction back from its groups (`decodeGroups_encodeGroups`), and these are the
groups of its word. -/
theorem decodeOfEncode : Obligations.DecodeOfEncode := by
  unfold Obligations.DecodeOfEncode
  intro e i hwf
  rw [decode, encode, Groups.ofWord_toWord, decodeGroups_encodeGroups e i hwf]

end Sys2Proof
end

section
/-! The bits of the words (O3 to O5): the word of each way to build groups, and then the words of the instructions, group by
group of R110 to R125. -/

namespace Sys2Proof

open Sys2Proof.Machine

/-! ## The words of the groups -/

section
variable (f : BitVec 8) (ofs : BitVec 5) (c7 : BitVec 7) (c4 : BitVec 4) (hi an : BitVec 2) (a d : BitVec 3) (o : BitVec 5)

theorem Groups.toWord_ofByteField : (Groups.ofByteField f d o).toWord = f ++ d ++ o :=
  congrArg (· ++ d ++ o) (Groups.byteField_ofByteField f d o)

theorem Groups.toWord_ofDirect : (Groups.ofDirect f d o).toWord = f.extractLsb' 0 5 ++ f.extractLsb' 5 3 ++ d ++ o :=
  congrArg (· ++ f.extractLsb' 5 3 ++ d ++ o) (BitVec.extractLsb'_append_extractLsb'_eq_extractLsb' rfl)

theorem Groups.toWord_ofOffset : (Groups.ofOffset ofs an d o).toWord = ofs ++ 0#1 ++ an ++ d ++ o :=
  calc (Groups.ofOffset ofs an d o).toWord
    _ = ofs ++ (0#1 ++ an) ++ d ++ o := congrArg (· ++ (0#1 ++ an) ++ d ++ o) (Groups.do5_ofOffset ofs an d o)
    _ = ofs ++ 0#1 ++ an ++ d ++ o := congrArg (· ++ d ++ o) BitVec.append_assoc'

theorem Groups.toWord_ofMode : (Groups.ofMode hi a an d o).toWord = hi ++ a ++ 1#1 ++ an ++ d ++ o :=
  congrArg (· ++ d ++ o) (BitVec.append_assoc' (x₁ := hi ++ a) (x₂ := 1#1) (x₃ := an))

theorem Groups.toWord_ofFlags :
    (Groups.ofFlags c7 an o).toWord = 1#1 ++ c7.extractLsb' 3 4 ++ 1#1 ++ an ++ c7.extractLsb' 0 3 ++ o :=
  have htop : 1#1 ++ c7.extractLsb' 6 1 ++ c7.extractLsb' 3 3 ++ (1#1 ++ an) =
      1#1 ++ c7.extractLsb' 3 4 ++ 1#1 ++ an := by
    revert c7 an; decide
  congrArg (· ++ c7.extractLsb' 0 3 ++ o) htop

theorem Groups.toWord_ofIa12 (ia : BitVec 12) : (Groups.ofIa12 ia c4).toWord = ia ++ c4 :=
  calc (Groups.ofIa12 ia c4).toWord
    _ = (Groups.ofIa12 ia c4).ia12 ++ c4 := by
      simp only [Groups.toWord, Groups.ia12, Groups.ofIa12, BitVec.extractLsb'_append_eq_left]
      exact BitVec.append_assoc'
    _ = ia ++ c4 := by rw [Groups.ia12_ofIa12]

theorem Groups.toWord_ofCode4 : (Groups.ofCode4 c4 o).toWord = 0b0000000#7 ++ c4 ++ o :=
  have htop : 0b00#2 ++ 0b000#3 ++ (0b00#2 ++ c4.extractLsb' 3 1) ++ c4.extractLsb' 0 3 = 0b0000000#7 ++ c4 := by
    revert c4; decide
  congrArg (· ++ o) htop

theorem Groups.toWord_ofC7 :
    (Groups.ofC7 c7 an o).toWord = 0b10#2 ++ c7.extractLsb' 0 6 ++ c7.extractLsb' 6 1 ++ an ++ o :=
  have htop : 0b10#2 ++ c7.extractLsb' 3 3 ++ c7.extractLsb' 0 3 ++ (c7.extractLsb' 6 1 ++ an) =
      0b10#2 ++ c7.extractLsb' 0 6 ++ c7.extractLsb' 6 1 ++ an := by
    revert c7 an; decide
  congrArg (· ++ o) htop

theorem Groups.toWord_ofCount4 : (Groups.ofCount4 c4 d o).toWord = 0b11#2 ++ c4 ++ 0b10#2 ++ d ++ o :=
  have htop : 0b11#2 ++ c4.extractLsb' 1 3 ++ (c4.extractLsb' 0 1 ++ 0b10#2) = 0b11#2 ++ c4 ++ 0b10#2 := by
    revert c4; decide
  congrArg (· ++ d ++ o) htop

end

/-! ## Two groups of bits read as one -/

section
variable {n : Nat} (x : BitVec n)

/-- op[7:0] of a word without a field at op[7:5]. -/
theorem append_three_five (d : BitVec 3) (o : BitVec 5) : x ++ d ++ o = x ++ (d ++ o) := BitVec.append_assoc

/-- op[4:0] of the register forms. -/
theorem append_three_two (ooo : BitVec 3) (l : BitVec 2) : x ++ ooo ++ l = x ++ (ooo ++ l) := BitVec.append_assoc

/-- op[4:0] of a load or store: the direction, the size, and direct or indirect (R104). -/
theorem append_direction_size (p q : BitVec 1) (r : BitVec 3) : x ++ (p ++ q ++ r) = x ++ p ++ q ++ r :=
  BitVec.append_assoc'.trans (congrArg (· ++ r) BitVec.append_assoc')

end

/-! ## Loads and stores (R110 to R116) -/

/-- The groups of a load or store of one register, by its mode; `k` is op[4:3] (R110 to R115). -/
def modeGroups (e : Encoding) (k : BitVec 2) (r : GReg) : Mode → Groups
  | .direct f => .ofDirect f r.num (k ++ 0b000#3)
  | .offset ofs an => .ofOffset ofs (an.num e) r.num (k ++ 0b100#3)
  | .index rx an => .ofMode 0b00#2 rx.num (an.num e) r.num (k ++ 0b100#3)
  | .postInc an => .ofMode 0b01#2 0b000#3 (an.num e) r.num (k ++ 0b100#3)
  | .preDec an => .ofMode 0b01#2 0b001#3 (an.num e) r.num (k ++ 0b100#3)
  | .postUpd an => .ofMode 0b01#2 0b010#3 (an.num e) r.num (k ++ 0b100#3)

section
variable (e : Encoding) (z : Size) (m : Mode) (r : GReg) (an : AReg) (sel : BitVec 7)

theorem encodeGroups_loadForm : encodeGroups e (loadForm z m r) = modeGroups e (0#1 ++ z.bit) r m := by
  cases z <;> cases m <;> rfl

theorem encodeGroups_storeForm : encodeGroups e (storeForm z m r) = modeGroups e (1#1 ++ z.bit) r m := by
  cases z <;> cases m <;> rfl

theorem encodeGroups_loadRgsForm :
    encodeGroups e (loadRgsForm z an sel) = .ofFlags sel (an.num e) (0#1 ++ z.bit ++ 0b100#3) := by
  cases z <;> rfl

theorem encodeGroups_storeRgsForm :
    encodeGroups e (storeRgsForm z sel an) = .ofFlags (reverseFlags sel) (an.num e) (1#1 ++ z.bit ++ 0b100#3) := by
  cases z <;> rfl

end

/-- The flags of a store stand in the word with R6 at op[5] (R116). -/
theorem append_reverseFlags (sel : BitVec 7) (an : BitVec 2) :
    1#1 ++ (reverseFlags sel).extractLsb' 3 4 ++ 1#1 ++ an ++ (reverseFlags sel).extractLsb' 0 3 =
      1#1 ++ sel.extractLsb' 0 1 ++ sel.extractLsb' 1 1 ++ sel.extractLsb' 2 1 ++ sel.extractLsb' 3 1 ++ 1#1 ++ an ++
        sel.extractLsb' 4 1 ++ sel.extractLsb' 5 1 ++ sel.extractLsb' 6 1 := by
  revert sel an; decide

theorem decode_encode_emptySelection {e : Encoding} {i : Instr} {an : BitVec 2} (k : LdSt)
    (hi : encodeGroups e i = .ofFlags 0 an (k.bits ++ 0b100#3)) : decode e (encode e i) = .error .emptyRgs := by
  rw [decode, encode, Groups.ofWord_toWord, hi, decodeGroups_indirect (k := k) rfl]
  simp [decodeIndirect, Groups.ofFlags_hi_ne, decodeRgs, Groups.flags7_ofFlags]

/-- Settles O3: the groups of each form (`encodeGroups_loadForm` and its like) are a word with op[4:3] the direction and the
size. -/
theorem loadStoreWords : Obligations.LoadStoreWords := by
  unfold Obligations.LoadStoreWords
  intro e z r rx an f ofs sel
  have hform : ∀ p ∈ [(0#1, loadForm z), (1#1, storeForm z)], ∀ m r,
      encode e (p.2 m r) = (modeGroups e (p.1 ++ z.bit) r m).toWord := by
    simp [encode, encodeGroups_loadForm, encodeGroups_storeForm]
  refine ⟨fun p hp => ?_, ?_, ?_, ?_, ?_⟩
  · simp only [hform p hp, modeGroups, Groups.toWord_ofDirect, Groups.toWord_ofOffset, Groups.toWord_ofMode,
      append_direction_size]
    exact ⟨trivial, trivial, trivial, rfl, rfl, rfl⟩
  · rw [encode, encodeGroups_loadRgsForm, Groups.toWord_ofFlags]
    exact append_direction_size ..
  · rw [encode, encodeGroups_storeRgsForm, Groups.toWord_ofFlags]
    exact (congrArg (· ++ (1#1 ++ z.bit ++ 0b100#3)) (append_reverseFlags sel (an.num e))).trans
      (append_direction_size ..)
  · cases z with
    | byte => exact decode_encode_emptySelection .ldbt rfl
    | short => exact decode_encode_emptySelection .ldsh rfl
  · cases z with
    | byte => exact decode_encode_emptySelection .stbt rfl
    | short => exact decode_encode_emptySelection .stsh rfl

/-! ## Flow control, constants and registers (R117 to R125) -/

/-- Settles O4: each group of words is one way to build groups, with the code of the instruction in the place that the
row gives it. -/
theorem flowAndConstantWords : Obligations.FlowAndConstantWords := by
  unfold Obligations.FlowAndConstantWords
  intro e f a c h r
  refine ⟨Groups.toWord_ofIa12 _ a, Groups.toWord_ofIa12 _ a, ?branches, Groups.toWord_ofCode4 h _,
    ?_, ?_, ?_, ?_, ?_, ?_, ?_, ?_, ?_, ?_, ?_, ?_, ?svpc, ?moveConst, ?constants⟩
  case branches => simp [encode, encodeGroups, Groups.toWord_ofByteField, append_three_five]
  case svpc => cases hcode : e.svpc <;> simp [encode, encodeGroups, hcode, SvpcCode.bits, Groups.toWord_ofCode4]
  case moveConst => exact (Groups.toWord_ofByteField ..).trans BitVec.append_assoc'
  case constants => simp [encode, encodeGroups, Groups.toWord_ofByteField]
  all_goals simp [encode, encodeGroups, Groups.toWord_ofCode4]

/-- Settles O5: the groups of a register word are its fields as they stand, but for the constants of R124 and R125 and for
codes that the rows write across two groups. -/
theorem registerWords : Obligations.RegisterWords := by
  unfold Obligations.RegisterWords
  intro e s t d k c c6 an sr
  refine ⟨?threeRegisters, ?btts, ?comp, ?cmpc, ?compNeg, Groups.toWord_ofC7 .., ?mtsrConst, ?counts, ?dyadic, ?cpcf,
    ?_, ?_, ?_, ?_⟩
  case threeRegisters =>
    cases hslot : e.iorbSlot <;>
      simp [encode, encodeGroups, Groups.toWord, hslot, IorbSlot.iorbBits, IorbSlot.xorbBits]
  case btts | comp | cmpc => simp [encode, encodeGroups, Groups.toWord, append_three_five]
  case compNeg =>
    have hc : 0b10#2 ++ c6.extractLsb' 3 3 ++ c6.extractLsb' 0 3 = 0b10#2 ++ c6 := by revert c6; decide
    exact congrArg (· ++ t.num ++ 0b10110#5) hc
  case mtsrConst => simp [encode, encodeGroups, Groups.toWord_ofC7, SReg.num, low2_append]
  case counts => simp [encode, encodeGroups, Groups.toWord_ofCount4]
  case dyadic => simp [encode, encodeGroups, Groups.toWord, append_three_two]
  case cpcf =>
    simp only [encode, encodeGroups, Groups.toWord, append_three_five]
    exact BitVec.append_assoc (x₁ := 0b11#2 ++ s.num) (x₂ := 0b001#3) (x₃ := 0b00001010#8)
  all_goals simp [encode, encodeGroups, Groups.toWord]

end Sys2Proof
end

section
/-! The words that are no instruction (O6), and the spec's example words (O7). For each part of the decoder: when it answers
no instruction, and why; then the fields of R128 as fields of the five groups of the word. -/

namespace Sys2Proof

/-! ## When a part of the decoder answers no instruction -/

theorem ite_eq_error_iff {c : Prop} [Decidable c] {x y : Decoded} {r : DecodeReject} (hx : x ≠ .error r) :
    (if c then x else y) = .error r ↔ ¬ c ∧ y = .error r := by
  split <;> simp_all

@[simp] theorem ite_ok_eq_error_iff {c : Prop} [Decidable c] {i : Instr} {y : Decoded} {r : DecodeReject} :
    (if c then .ok i else y) = .error r ↔ ¬ c ∧ y = .error r := ite_eq_error_iff nofun

section
variable {e : Encoding} {g : Groups} {k : LdSt} {ooo : BitVec 3} {r : DecodeReject}

theorem decodeDirect_ne_error : decodeDirect k g ≠ .error r := by
  cases k <;> nofun

theorem decodeUpdating_eq_error_iff :
    decodeUpdating e k g = .error r ↔
      DecodeReject.unassignedOpcode = r ∧ g.a ≠ 0b000#3 ∧ g.a ≠ 0b001#3 ∧ g.a ≠ 0b010#3 := by
  unfold decodeUpdating
  rw [ite_eq_error_iff (by cases k <;> nofun), ite_eq_error_iff (by cases k <;> nofun),
    ite_eq_error_iff (by cases k <;> nofun), Except.error.injEq]
  tauto

theorem decodeRgs_eq_error_iff : decodeRgs e k g = .error r ↔ DecodeReject.emptyRgs = r ∧ g.flags7 = 0 := by
  unfold decodeRgs
  rw [← ite_not, ite_eq_error_iff (by cases k <;> nofun), Except.error.injEq, not_not, and_comm]

theorem Groups.flags7_eq_zero_iff (g : Groups) :
    g.flags7 = 0#7 ↔ g.hi.extractLsb' 0 1 = 0 ∧ g.a = 0b000#3 ∧ g.d = 0b000#3 := by
  obtain ⟨hi, a, b, d, o⟩ := g
  simp only [Groups.flags7]
  revert hi a d; decide

/-- The unassigned updating modes and the empty selection (R128 items 1 and 2). -/
theorem decodeIndirect_eq_error_iff :
    decodeIndirect e k g = .error r ↔ g.b.extractLsb' 2 1 = 1 ∧
      ((DecodeReject.unassignedOpcode = r ∧ g.hi = 0b01#2 ∧ g.a ≠ 0b000#3 ∧ g.a ≠ 0b001#3 ∧ g.a ≠ 0b010#3) ∨
       (DecodeReject.emptyRgs = r ∧ g.hi = 0b10#2 ∧ g.a = 0b000#3 ∧ g.d = 0b000#3)) := by
  unfold decodeIndirect
  rw [ite_eq_error_iff (by cases k <;> nofun), ite_eq_error_iff (by cases k <;> nofun)]
  rcases bv1_cases (g.b.extractLsb' 2 1) with hb | hb <;> rw [hb]
  · simp
  · rcases bv2_cases g.hi with hhi | hhi | hhi | hhi <;>
      simp [hhi, decodeUpdating_eq_error_iff, decodeRgs_eq_error_iff, Groups.flags7_eq_zero_iff]

theorem decodeBranch0_ne_error : decodeBranch0 g ≠ .error r := by simp [decodeBranch0]

theorem decodeBranch1_ne_error : decodeBranch1 g ≠ .error r := by simp [decodeBranch1]

theorem decodeSiah_eq_error_iff :
    decodeSiah g = .error r ↔ DecodeReject.unassignedOpcode = r ∧ g.highSevenZero = false := by
  rw [decodeSiah, ite_ok_eq_error_iff, Except.error.injEq, Bool.not_eq_true, and_comm]

theorem decodeImplied_default_eq_error_iff :
    decodeImplied .default g = .error r ↔
      DecodeReject.unassignedOpcode = r ∧ (g.highSevenZero = false ∨ g.iah4 ∈ [0b0101#4, 0b1110#4, 0b1111#4]) := by
  unfold decodeImplied
  cases g.highSevenZero
  · simp
  · simp only [if_true, ite_ok_eq_error_iff, Except.error.injEq]
    generalize g.iah4 = c
    cases r <;> revert c <;> decide

theorem decodePrefix00_ne_error : decodePrefix00 e ooo g ≠ .error r := by
  cases hslot : e.iorbSlot <;> simp [decodePrefix00, hslot]

theorem decodePrefix01_eq_error_iff :
    decodePrefix01 ooo g = .error r ↔ DecodeReject.unassignedOpcode = r ∧ ooo = 0b101#3 ∧ g.d ≠ 0b000#3 := by
  rcases bv3_cases ooo with rfl | rfl | rfl | rfl | rfl | rfl | rfl | rfl <;>
    simp [decodePrefix01, and_comm]

theorem decodeMtsrConst_ne_error : decodeMtsrConst e g ≠ .error r := by
  unfold decodeMtsrConst
  split <;> nofun

theorem decodePrefix10_eq_error_iff :
    decodePrefix10 e ooo g = .error r ↔ DecodeReject.unassignedOpcode = r ∧
      (ooo = 0b010#3 ∨ ooo = 0b011#3 ∨ (ooo = 0b100#3 ∧ g.d ≠ 0b000#3 ∧ g.d ≠ 0b001#3)) := by
  rcases bv3_cases ooo with rfl | rfl | rfl | rfl | rfl | rfl | rfl | rfl <;>
    simp [decodePrefix10, decodeMtsrConst_ne_error, and_comm, and_left_comm]

theorem decodeConstCount_ne_error : decodeConstCount ooo g ≠ .error r := by simp [decodeConstCount]

/-- The cells of the table of R125 that hold no instruction under the defaults, and the fixed bits of `cpcf`, `mfdp` and
`mtdp` (R128). -/
def emptyDyadicCell (ooo : BitVec 3) (g : Groups) : Prop :=
  (g.b = 0b000#3 ∧ ooo = 0b001#3) ∨
  (g.b = 0b001#3 ∧ (3 ≤ ooo.toNat ∨ (ooo = 0b010#3 ∧ g.d ≠ 0))) ∨
  (g.b = 0b011#3 ∧ (4 ≤ ooo.toNat ∨ (ooo.toNat < 2 ∧ g.a ≠ 0))) ∨
  g.b ∈ [0b100#3, 0b101#3, 0b111#3]

theorem decodeDyadic_default_eq_error_iff (han : g.an ≠ 0b10#2) :
    decodeDyadic .default ooo g = .error r ↔ DecodeReject.unassignedOpcode = r ∧ emptyDyadicCell ooo g := by
  rcases bv3_cases ooo with rfl | rfl | rfl | rfl | rfl | rfl | rfl | rfl <;>
    rcases bv3_cases g.b with hb | hb | hb | hb | hb | hb | hb | hb <;>
    simp_all [decodeDyadic, Encoding.default, and_comm, Groups.an, emptyDyadicCell]

theorem decodeRegister_default_eq_error_iff :
    decodeRegister .default ooo g = .error r ↔ DecodeReject.unassignedOpcode = r ∧
      ((g.hi = 0b10#2 ∧ (ooo = 0b010#3 ∨ ooo = 0b011#3 ∨ (ooo = 0b100#3 ∧ g.d ≠ 0b000#3 ∧ g.d ≠ 0b001#3))) ∨
       (g.hi = 0b01#2 ∧ ooo = 0b101#3 ∧ g.d ≠ 0b000#3) ∨
       (g.hi = 0b11#2 ∧ g.an ≠ 0b10#2 ∧ emptyDyadicCell ooo g)) := by
  unfold decodeRegister
  rcases bv2_cases g.hi with hhi | hhi | hhi | hhi <;> rw [hhi]
  · simp [decodePrefix00_ne_error]
  · simp [decodePrefix01_eq_error_iff]
  · simp [decodePrefix10_eq_error_iff]
  · by_cases han : g.an = 0b10#2
    · simp [han, decodeConstCount_ne_error]
    · simp [han, decodeDyadic_default_eq_error_iff han]

end

/-! ## The fields of a word and its groups -/

/-- Bits of a field of a word are bits of the word. -/
theorem extractLsb'_of_extractLsb' {n : Nat} (x : BitVec n) {s l s' l' : Nat} (h : s' + l' ≤ l) :
    (x.extractLsb' s l).extractLsb' s' l' = x.extractLsb' (s + s') l' := by
  ext k hk
  have hlt : s' + k < l := by omega
  simp [hlt, Nat.add_assoc]

namespace Groups

section
variable (op : Word)

theorem hi_ofWord : (ofWord op).hi = op.extractLsb' 14 2 := rfl

theorem a_ofWord : (ofWord op).a = op.extractLsb' 11 3 := rfl

theorem b_ofWord : (ofWord op).b = op.extractLsb' 8 3 := rfl

theorem d_ofWord : (ofWord op).d = op.extractLsb' 5 3 := rfl

theorem o_ofWord : (ofWord op).o = op.extractLsb' 0 5 := rfl

theorem low2Bits_ofWord : (ofWord op).o.extractLsb' 0 2 = op.extractLsb' 0 2 := extractLsb'_of_extractLsb' op (by decide)

theorem low3Bits_ofWord : (ofWord op).o.extractLsb' 0 3 = op.extractLsb' 0 3 := extractLsb'_of_extractLsb' op (by decide)

theorem ooo_ofWord : (ofWord op).o.extractLsb' 2 3 = op.extractLsb' 2 3 := extractLsb'_of_extractLsb' op (by decide)

theorem op10_ofWord : (ofWord op).b.extractLsb' 2 1 = op.extractLsb' 10 1 := extractLsb'_of_extractLsb' op (by decide)

theorem an_ofWord : (ofWord op).an = op.extractLsb' 8 2 := extractLsb'_of_extractLsb' op (by decide)

theorem do5_ofWord : (ofWord op).do5 = op.extractLsb' 11 5 := BitVec.extractLsb'_append_extractLsb'_eq_extractLsb' rfl

theorem iah4_ofWord : (ofWord op).iah4 = op.extractLsb' 5 4 :=
  have h8 : (ofWord op).b.extractLsb' 0 1 = op.extractLsb' 8 1 := extractLsb'_of_extractLsb' op (by decide)
  (congrArg (· ++ op.extractLsb' 5 3) h8).trans (BitVec.extractLsb'_append_extractLsb'_eq_extractLsb' rfl)

theorem do5_append_op10_ofWord : (ofWord op).do5 ++ (ofWord op).b.extractLsb' 2 1 = op.extractLsb' 10 6 := by
  rw [do5_ofWord, op10_ofWord]
  exact BitVec.extractLsb'_append_extractLsb'_eq_extractLsb' rfl

theorem do5_append_op9_ofWord : (ofWord op).do5 ++ (ofWord op).b.extractLsb' 1 2 = op.extractLsb' 9 7 := by
  have h9 : (ofWord op).b.extractLsb' 1 2 = op.extractLsb' 9 2 := extractLsb'_of_extractLsb' op (by decide)
  rw [do5_ofWord, h9]
  exact BitVec.extractLsb'_append_extractLsb'_eq_extractLsb' rfl

end

section
variable (g : Groups)

/-- op[15:11] of the unassigned updating modes (R128 item 1). -/
theorem do5_mem_iff :
    g.do5 ∈ [0b01011#5, 0b01100#5, 0b01101#5, 0b01110#5, 0b01111#5] ↔
      g.hi = 0b01#2 ∧ g.a ≠ 0b000#3 ∧ g.a ≠ 0b001#3 ∧ g.a ≠ 0b010#3 := by
  obtain ⟨hi, a, b, d, o⟩ := g
  simp only [do5]
  revert hi a; decide

/-- op[15:9] = 0 (R127). -/
theorem do5_append_eq_zero_iff : g.do5 ++ g.b.extractLsb' 1 2 = 0#7 ↔ g.highSevenZero = true := by
  obtain ⟨hi, a, b, d, o⟩ := g
  simp only [do5, highSevenZero]
  revert hi a b; decide

/-- op[15:10] of a register selection without a flag in op[14:11] (R116). -/
theorem do5_append_eq_emptySelection_iff :
    g.do5 ++ g.b.extractLsb' 2 1 = 0b100001#6 ↔ g.b.extractLsb' 2 1 = 1 ∧ g.hi = 0b10#2 ∧ g.a = 0b000#3 := by
  obtain ⟨hi, a, b, d, o⟩ := g
  simp only [do5]
  revert hi a b; decide

end

end Groups

theorem append_registerForm_eq_iff (ooo : BitVec 3) (o : BitVec 5) :
    ooo ++ 0b10#2 = o ↔ o.extractLsb' 0 2 = 0b10#2 ∧ ooo = o.extractLsb' 2 3 := by revert ooo o; decide

theorem registerForm_low3_ne (ooo : BitVec 3) : (ooo ++ 0b10#2).extractLsb' 0 3 ≠ 0b100#3 := by revert ooo; decide

/-! ## The statements -/

/-- Settles O6: in each line of R104 the words that the decoder does not read are the items of R128 with that op[4:0], and
an item with another op[4:0] holds of no word of the line. -/
theorem rejectedWords : Obligations.RejectedWords := by
  unfold Obligations.RejectedWords
  intro op
  simp only [decode, ← Groups.do5_append_op10_ofWord, ← Groups.do5_append_op9_ofWord, ← Groups.op10_ofWord,
    ← Groups.do5_ofWord, ← Groups.iah4_ofWord, ← Groups.an_ofWord, ← Groups.ooo_ofWord, ← Groups.low3Bits_ofWord,
    ← Groups.low2Bits_ofWord, ← Groups.hi_ofWord, ← Groups.a_ofWord, ← Groups.b_ofWord, ← Groups.d_ofWord,
    ← Groups.o_ofWord]
  generalize Groups.ofWord op = g
  rcases opcode_lines g.o with ⟨c, ho⟩ | ⟨c, ho⟩ | ⟨c, ho⟩ | ⟨c, ho⟩ | ho | ho | ⟨c, ho⟩ | ⟨ooo, ho⟩ | ho
  · obtain ⟨k, rfl⟩ := LdSt.exists_bits c
    rw [decodeGroups_direct ho]
    cases k <;> simp [decodeDirect_ne_error, ho, LdSt.bits]
  · obtain ⟨k, rfl⟩ := LdSt.exists_bits c
    rw [decodeGroups_indirect ho]
    simp only [decodeIndirect_eq_error_iff, Groups.do5_mem_iff]
    cases k <;> simp [ho, LdSt.bits, Groups.do5_append_eq_emptySelection_iff, and_assoc]
  · rcases bv1_cases c with rfl | rfl <;> simp [decodeGroups, ho]
  · rcases bv1_cases c with rfl | rfl <;> simp [decodeGroups, ho]
  · simp [decodeGroups, ho, decodeSiah_eq_error_iff, Groups.do5_append_eq_zero_iff]
  · simp [decodeGroups, ho, decodeImplied_default_eq_error_iff, Groups.do5_append_eq_zero_iff]
  · rcases bv1_cases c with rfl | rfl <;> simp [decodeGroups, ho]
  · rw [decodeGroups_register ho]
    have hlow : g.o.extractLsb' 0 2 = 0b10#2 := by rw [ho]; exact BitVec.extractLsb'_append_eq_right
    have hooo : g.o.extractLsb' 2 3 = ooo := by rw [ho]; exact BitVec.extractLsb'_append_eq_left
    have hlow3 : g.o.extractLsb' 0 3 ≠ 0b100#3 := by rw [ho]; exact registerForm_low3_ne ooo
    have ho (o : BitVec 5) : g.o = o ↔ o.extractLsb' 0 2 = 0b10#2 ∧ ooo = o.extractLsb' 2 3 := by
      rw [ho, append_registerForm_eq_iff]
    simp [decodeRegister_default_eq_error_iff, hlow, hooo, hlow3, ho, emptyDyadicCell]
  · simp only [List.mem_cons, List.not_mem_nil, or_false] at ho
    rcases ho with ho | ho | ho | ho | ho | ho | ho | ho <;>
      simp [decodeGroups, ho, decodeBranch0_ne_error, decodeBranch1_ne_error]

/-- Settles O7, by running the decoder. -/
theorem exampleWords : Obligations.ExampleWords := by
  unfold Obligations.ExampleWords
  decide

end Sys2Proof
end

section
/-! The step of a processor that fetches (O8). -/

namespace Sys2Proof.Machine

theorem runWord_of_decode {op : Word} {s : State} {i : Instr} (h : decode s.cfg.enc op = .ok i) :
    runWord op s = exec i s := by
  simp [runWord, h]

theorem runWord_of_reject {op : Word} {s : State} {r : DecodeReject} (h : decode s.cfg.enc op = .error r) :
    runWord op s = .refused (DecodeReject.refusal r) := by
  simp [runWord, h]

/-- Where nothing takes the place of the fetch, the step runs the word at pc and then notes its address and the end of the
boundary (R335, R341). -/
theorem step_of_fetch {s w : State} (hw : s.hostWrites = w) (hrun : w.run = .running) (hreset : w.pins.reset = false)
    (hstrq : w.pins.strq = false) (hack : w.acknowledges = false) (hbreak : w.pins.breakpoint = false) :
    step s = mapNext (fun t => (t.noteExecuted w.pc).nextBoundary false) (runWord (w.readCode w.pc) w) := by
  simp [step, hw, boundary, hreset, hrun, runningBoundary, hstrq, hack, State.fetched, hbreak]

/-- Settles O8: the step is the run of the word at pc (`step_of_fetch`), by what the decoder and `exec` answer for it. -/
theorem stepRunsDecoded : Obligations.StepRunsDecoded := by
  unfold Obligations.StepRunsDecoded
  intro s w hw hrun hreset hstrq hack hbreak
  rw [step_of_fetch hw hrun hreset hstrq hack hbreak]
  refine ⟨fun i t hdecode hexec => ?_, fun i r hdecode hexec => ?_, fun hdecode => ?_, fun hdecode => ?_⟩
  · rw [runWord_of_decode hdecode, hexec]
    rfl
  · rw [runWord_of_decode hdecode, hexec]
    rfl
  · rw [runWord_of_reject hdecode]
    rfl
  · rw [runWord_of_reject hdecode]
    rfl

end Sys2Proof.Machine
end

section
/-! The members of a register selection (O28). Member k of a slot list is picked where flag k is set; that it is picked
nowhere else is that no slot list names a slot twice. -/

namespace Sys2Proof.Machine

/-- The members by membership, as `any_pickFrom_cons` gives them by a test. -/
theorem mem_pickFrom_cons {sel : BitVec 7} {k : Nat} {x y : Slot} {rest : List Slot} :
    y ∈ pickFrom sel k (x :: rest) ↔ sel.getLsbD k = true ∧ y = x ∨ y ∈ pickFrom sel (k + 1) rest := by
  cases h : sel.getLsbD k <;> simp [pickFrom, h]

theorem pickFrom_sublist (sel : BitVec 7) (k : Nat) (l : List Slot) : (pickFrom sel k l).Sublist l := by
  induction l generalizing k with
  | nil => exact .slnil
  | cons x rest ih =>
    unfold pickFrom
    split
    · exact (ih (k + 1)).cons_cons x
    · exact (ih (k + 1)).cons x

/-- Counted from flag `k`, element i of a list is picked by flag `k + i`. -/
theorem getElem_mem_pickFrom_iff {l : List Slot} (hn : l.Nodup) (sel : BitVec 7) (k i : Nat) (hi : i < l.length) :
    l[i] ∈ pickFrom sel k l ↔ sel.getLsbD (k + i) = true := by
  induction l generalizing k i with
  | nil => simp at hi
  | cons x rest ih =>
    obtain ⟨hx, hrest⟩ := List.nodup_cons.1 hn
    rw [mem_pickFrom_cons]
    cases i with
    | zero =>
      have hlater : x ∉ pickFrom sel (k + 1) rest := fun h => hx ((pickFrom_sublist sel (k + 1) rest).subset h)
      simp [hlater]
    | succ i =>
      have hi' : i < rest.length := by simpa using hi
      have hfirst : rest[i] ≠ x := fun h => hx (h ▸ List.getElem_mem hi')
      simp [hfirst, ih hrest (k + 1) i hi', Nat.add_right_comm k 1 i, Nat.add_assoc]

theorem nodup_slots (z : Size) : (slots z).Nodup := by
  cases z <;> decide

/-- Settles O28: the lists by the definition, the order by `pickFrom_sublist`, the members by
`getElem_mem_pickFrom_iff` from flag 0. -/
theorem selectedSlots : Obligations.SelectedSlots := by
  unfold Obligations.SelectedSlots
  refine ⟨rfl, rfl, fun z sel => ⟨pickFrom_sublist sel 0 (slots z), fun k hk => ?_⟩⟩
  rw [selected, getElem_mem_pickFrom_iff (nodup_slots z), Nat.zero_add]

end Sys2Proof.Machine
end

section
/-! Loads and stores of one register (O26, O27), the moves (O32) and the debug port (O36). -/

namespace Sys2Proof.Machine

/-! ## Instructions that end sequentially -/

/-- An instruction that makes a change of the registers and then ends sequentially (R290, R354). -/
theorem WritesAtMost.sequential {ps : List Part} {s u : State} (h : WritesAtMost ps s u)
    (hpc : nextPc u = nextPc s := by rfl) : Sequential ps s u.advancePc :=
  have hend : WritesAtMost ps s u.advancePc := .of_done rfl h
  ⟨(advancePc_pc u).trans hpc, hend.frame, hend.sameMemory⟩

/-- An instruction that puts a value in a general register and ends. -/
theorem yields_of_done {i : Instr} {s : State} {rd : GReg} {v : Word} (h : exec i s = done (s.setReg rd v)) :
    Yields i s rd v :=
  ⟨_, h, by simp, (WritesAtMost.setReg s rd v).sequential⟩

/-! ## The update of an addressing mode -/

section
variable {m : Mode} {z : Size} {s0 s : State}

theorem Mode.areg_applyUpdate {an : AReg} {v : Word} (h : m.update z s0 = some (an, v)) :
    (m.applyUpdate z s0 s).areg an = v := by
  simp [Mode.applyUpdate, h]

/-- A mode updates no general register but its own address register. -/
theorem Mode.reg_applyUpdate {r : GReg} (h : m.updatesReg r = false) :
    (m.applyUpdate z s0 s).reg r = s.reg r := by
  cases m with
  | direct | offset | index => rfl
  | postInc an | preDec an | postUpd an =>
    have hother : AReg.isReg an r = false := h
    simp [Mode.applyUpdate, Mode.update, State.reg_setAreg, hother]

theorem nextPc_applyUpdate : nextPc (m.applyUpdate z s0 s) = nextPc s := by
  cases m with
  | direct | offset | index => rfl
  | postInc an | preDec an | postUpd an => exact nextPc_setAreg s an _

end

/-! ## Loads and stores of one register -/

theorem loadsItsAddress_loadForm (z : Size) (m : Mode) (rd : GReg) :
    loadsItsAddress (loadForm z m rd) = m.updatesReg rd := by
  cases z <;> cases m <;> rfl

/-- Settles O26: the load gives the register its value, and the update of the mode, which is not of that register, gives
the address register its own. -/
theorem loadRegister : Obligations.LoadRegister := by
  unfold Obligations.LoadRegister
  intro z m rd s hown
  rw [loadsItsAddress_loadForm] at hown
  have hwrites := (WritesAtMost.setReg s rd (s.load z (m.eda z s))).trans (.applyUpdate m z s _)
  refine ⟨_, (exec_loadForm z m rd s).trans (loadReg_next_iff.2 ⟨hown, rfl⟩), ?_, fun an v hup => ?_,
    hwrites.sequential nextPc_applyUpdate⟩
  · rw [State.reg_advancePc, Mode.reg_applyUpdate hown, State.reg_setReg, if_pos rfl]
  · rw [State.areg_advancePc, Mode.areg_applyUpdate hup]

/-- Settles O27: the bytes stored read as `readByte_writeByte_same` and `load_store` say, and the update of the mode comes
after them and writes no memory. -/
theorem storeRegister : Obligations.StoreRegister := by
  unfold Obligations.StoreRegister
  intro z m rs s hs
  have hexec := storeReg_next_iff (z := z) (m := m) (rs := rs) (s := s).2 rfl
  have hupdate := storeReg_next_writesAtMost hexec
  have hmem := hupdate.sameMemory
  refine ⟨_, (exec_storeForm z m rs s).trans hexec, fun hsep => ?_, ?_, ?_, fun an v hup => ?_, ?_, ?_, ?_⟩
  · have hseparate : s.separate (s.touched z (m.eda z s)) :=
      hsep.elim (fun hunmapped => State.separate_touched hunmapped z _) id
    rw [hmem.load hupdate.frame.cfg]
    exact State.load_store hs z _ hseparate
  · rintro rfl
    rw [hmem.byte]
    exact State.readByte_writeByte_same hs _ (s.sameByte_refl _)
  · rintro rfl
    rw [hmem.byte]
    exact (State.readByte_writeShort hs _ _ _).trans (if_pos (s.sameByte_refl _))
  · rw [State.areg_advancePc, Mode.areg_applyUpdate hup]
  · rw [advancePc_pc, nextPc_applyUpdate, nextPc_store]
  · exact (Unchanged.store s z _ _).trans hupdate.frame
  · exact (StoresOnly.store hs z _ _).trans_sameMemory hmem

/-! ## Moves and the debug port -/

/-- Settles O32: both moves put their value in the register and end, and the words are the groups of R121 and R125. -/
theorem moves : Obligations.Moves := by
  unfold Obligations.Moves
  intro rs rd c s
  exact ⟨yields_of_done rfl, yields_of_done rfl, rfl, (Groups.toWord_ofByteField ..).trans BitVec.append_assoc'⟩

theorem svpcOutput_eq_ite (s : State) :
    svpcOutput s = if s.run = .stopped ∧ s.cfg.svpcValue = .lastExecuted then s.lastPc else s.pc := by
  cases hrun : s.run <;> cases hval : s.cfg.svpcValue <;> simp [svpcOutput, hrun, hval]

/-- Settles O36: `mfdp` writes a register, `mtdp` and `svpc` write the latch on DBO, and `rspc` writes pc, with no regard
to the run state. -/
theorem debugPort : Obligations.DebugPort := by
  unfold Obligations.DebugPort
  intro r s
  have hrspc := WritesAtMost.setPc s s.pins.dbi
  exact ⟨yields_of_done rfl, ⟨_, rfl, rfl, (WritesAtMost.setDbgo s _).sequential⟩,
    ⟨_, rfl, svpcOutput_eq_ite s, (WritesAtMost.setDbgo s _).sequential⟩,
    ⟨_, rfl, rfl, hrspc.frame, hrspc.sameMemory⟩⟩

end Sys2Proof.Machine
end

section
/-! The special registers: what `mfsr` reads (O33), and what `mtsr` writes, from a register (O34) or a constant (O35). The
views of CC, CS and ID as words are read back field by field; each field has its own place. -/

namespace Sys2Proof

/-- A numbering gives different things different numbers. -/
theorem Perm4.at_inj {p : Perm4} {j k : BitVec 2} : p.at j = p.at k ↔ j = k :=
  (Function.LeftInverse.injective p.placeOf_at).eq_iff

end Sys2Proof

namespace Sys2Proof.Machine

/-! ## Fields of a word -/

theorem getLsbD_bitWord_shiftLeft (b : Bool) {k j : Nat} (hj : j < 16) :
    (bitWord b <<< k).getLsbD j = (decide (j = k) && b) := by
  rcases Nat.lt_trichotomy j k with h | rfl | h
  · simp [h, h.ne]
  · simp [bitWord, hj]
  · have hpos : j - k ≠ 0 := by omega
    simp [bitWord, hj, h.ne', hpos]

theorem extractLsb'_nibbleAt (v : BitVec 4) (j k : BitVec 2) :
    (nibbleAt v k).extractLsb' (4 * j.toNat) 4 = if j = k then v else 0 := by
  revert v j k; decide

/-! ## The view of CC -/

theorem Flags.getLsbD_toWord (p : Perm4) (f : Flags) {j : Nat} (hj : j < 16) :
    (f.toWord p).getLsbD j =
      (decide (j = (p.at 0).toNat) && f.c || decide (j = (p.at 1).toNat) && f.o ||
        decide (j = (p.at 2).toNat) && f.z || decide (j = (p.at 3).toNat) && f.n) := by
  simp only [Flags.toWord, BitVec.getLsbD_or, getLsbD_bitWord_shiftLeft _ hj]

/-- The flags that a word sets are those it was made from: no two of them share a place (R25). -/
theorem Flags.ofWord_toWord (p : Perm4) (f : Flags) : Flags.ofWord p (f.toWord p) = f := by
  have hlt : ∀ k, (p.at k).toNat < 16 := fun k => by omega
  simp [Flags.ofWord, Flags.getLsbD_toWord p f (hlt _), BitVec.toNat_inj, Perm4.at_inj]

/-- Every bit of CC above the four flags is 0 (R43). -/
theorem Flags.toNat_toWord_lt (p : Perm4) (f : Flags) : (f.toWord p).toNat < 16 := by
  refine Nat.lt_pow_two_of_testBit (n := 4) _ fun j hj => ?_
  rw [BitVec.testBit_toNat]
  have hne : ∀ k, j ≠ (p.at k).toNat := fun k => by omega
  by_cases h16 : j < 16
  · simp [Flags.getLsbD_toWord p f h16, hne]
  · exact BitVec.getLsbD_of_ge _ _ (by omega)

/-! ## The view of CS -/

/-- CS.IVTP above bit 4, the four flags at their places below it (R31). -/
theorem ControlStatus.getLsbD_toWord (p : CsPositions) (c : ControlStatus) {j : Nat} (hj : j < 16) :
    (c.toWord p).getLsbD j =
      ((!decide (j < 5) && c.ivtp.getLsbD (j - 5)) || decide (j = p.ir) && c.ir || decide (j = p.ie) && c.ie ||
        decide (j = p.save) && c.save || decide (j = p.sel) && c.sel) := by
  simp only [ControlStatus.toWord, BitVec.getLsbD_or, getLsbD_bitWord_shiftLeft _ hj, BitVec.getLsbD_append]
  by_cases h : j < 5 <;> simp [h]

theorem ControlStatus.extractLsb'_toWord (p : CsPositions) (c : ControlStatus) :
    (c.toWord p).extractLsb' 5 11 = c.ivtp := by
  refine BitVec.eq_of_getLsbD_eq fun j hj => ?_
  have hne : ∀ k : Fin 5, 5 + j ≠ k := fun k => by omega
  simp [ControlStatus.getLsbD_toWord p c (show 5 + j < 16 by omega), hne, hj]

/-- The five low bits of CS: the flags, each at its own place, and 0 at the reserved one (R31, R44). -/
theorem ControlStatus.getLsbD_toWord_low (p : CsPositions) (c : ControlStatus) (k : Fin 5) :
    (c.toWord p).getLsbD k =
      (decide (k = p.ir) && c.ir || decide (k = p.ie) && c.ie || decide (k = p.save) && c.save ||
        decide (k = p.sel) && c.sel) := by
  simp [ControlStatus.getLsbD_toWord p c (show (k : Nat) < 16 by omega), Fin.val_inj]

/-- The four flags stand at their places: no two of them share one (R31). -/
theorem ControlStatus.flags_toWord (p : CsPositions) (c : ControlStatus) :
    (c.toWord p).getLsbD p.ir = c.ir ∧ (c.toWord p).getLsbD p.ie = c.ie ∧ (c.toWord p).getLsbD p.save = c.save ∧
      (c.toWord p).getLsbD p.sel = c.sel := by
  have hlow := ControlStatus.getLsbD_toWord_low p c
  have hdistinct := p.distinct
  simp only [List.nodup_cons, List.mem_cons, List.not_mem_nil, or_false, not_or] at hdistinct
  obtain ⟨⟨hir_ie, hir_save, hir_sel⟩, ⟨hie_save, hie_sel⟩, hsave_sel, -⟩ := hdistinct
  refine ⟨?_, ?_, ?_, ?_⟩
  · simp [hlow, hir_ie, hir_save, hir_sel]
  · simp [hlow, Ne.symm hir_ie, hie_save, hie_sel]
  · simp [hlow, Ne.symm hir_save, Ne.symm hie_save, hsave_sel]
  · simp [hlow, Ne.symm hir_sel, Ne.symm hie_sel, Ne.symm hsave_sel]

/-- The reserved bit of CS reads as 0 (R44). -/
theorem ControlStatus.getLsbD_toWord_reserved {p : CsPositions} {k : Fin 5} (hk : k ∉ [p.ir, p.ie, p.save, p.sel])
    (c : ControlStatus) : (c.toWord p).getLsbD k = false := by
  simp only [List.mem_cons, List.not_mem_nil, or_false, not_or] at hk
  simp [ControlStatus.getLsbD_toWord_low, hk]

/-! ## The view of ID -/

/-- The nibbles of ID are the four constants, each at its own place (R42). -/
theorem extractLsb'_idWord (c : Config) (k : BitVec 2) :
    (idWord c).extractLsb' (4 * (c.idPos.at k).toNat) 4 =
      (if k = 0 then 5 else 0) ||| (if k = 1 then 1 else 0) ||| (if k = 2 then Ima.code c.idIma else 0) |||
        (if k = 3 then c.idRev else 0) := by
  simp only [idWord, BitVec.extractLsb'_or, extractLsb'_nibbleAt, Perm4.at_inj]

/-! ## Reading a special register -/

theorem yields_mfsr (k : SReg) (rd : GReg) {s : State} {v : Word} (h : s.sreg k = v) : Yields (.mfsr k rd) s rd v :=
  yields_of_done (h ▸ rfl)

/-- Settles O33: `mfsr` yields the view of the register, and each view gives its fields back. -/
theorem readSpecialRegister : Obligations.ReadSpecialRegister := by
  unfold Obligations.ReadSpecialRegister
  intro rd s
  have hcc : Flags.ofWord s.cfg.ccPos (s.sreg .cc) = s.cc := Flags.ofWord_toWord _ _
  refine ⟨yields_mfsr .lc rd rfl, yields_mfsr .au rd rfl, yields_mfsr .sp rd rfl, yields_mfsr .ta rd rfl,
    fun hsel => yields_mfsr .sa rd (by simp [State.sreg, hsel]),
    fun hsel => yields_mfsr .sa rd (by simp [State.sreg, hsel]), ?cc, ?cs, ?id⟩
  case cc =>
    exact ⟨_, yields_mfsr .cc rd rfl, congrArg Flags.c hcc, congrArg Flags.o hcc, congrArg Flags.z hcc,
      congrArg Flags.n hcc, Flags.toNat_toWord_lt _ _⟩
  case cs =>
    obtain ⟨hir, hie, hsave, hsel⟩ := ControlStatus.flags_toWord s.cfg.csPos s.cs
    exact ⟨_, yields_mfsr .cs rd rfl, ControlStatus.extractLsb'_toWord _ _, hir, hie, hsave, hsel,
      fun _ hk => ControlStatus.getLsbD_toWord_reserved hk s.cs⟩
  case id =>
    have hnibble := extractLsb'_idWord s.cfg
    have hima : (idWord s.cfg).extractLsb' (4 * (s.cfg.idPos.at 2).toNat) 4 = Ima.code s.cfg.idIma :=
      (hnibble 2).trans (by simp)
    refine ⟨_, yields_mfsr .id rd rfl, (hnibble 0).trans (by simp), (hnibble 1).trans (by simp),
      (congrArg BitVec.toNat hima).trans ?_, (hnibble 3).trans (by simp)⟩
    cases s.cfg.idIma <;> rfl

/-! ## Writing a special register -/

theorem nextPc_setSreg (s : State) (k : SReg) (v : Word) : nextPc (s.setSreg k v) = nextPc s := by
  simp [nextPc]

/-- A move to a special register writes the components of `SReg.written` and ends. -/
theorem sequential_setSreg (s : State) (k : SReg) (v : Word) :
    Sequential (SReg.written s k) s (s.setSreg k v).advancePc :=
  (WritesAtMost.setSreg s k v).sequential (nextPc_setSreg s k v)

theorem State.setSreg_sa_of_clear {s : State} (h : s.cs.sel = false) (v : Word) :
    s.setSreg .sa v = { s with sa := v } := by
  simp [State.setSreg, h]

theorem State.setSreg_sa_of_set {s : State} (h : s.cs.sel = true) (v : Word) :
    s.setSreg .sa v = { s with ira := v } := by
  simp [State.setSreg, h]

/-- Settles O34: the components are those of `sequential_setSreg`, and each takes the value or the bits of it that the
register holds. -/
theorem writeSpecialRegister : Obligations.WriteSpecialRegister := by
  unfold Obligations.WriteSpecialRegister
  rintro rs s v rfl
  have hseq := fun k => sequential_setSreg s k (s.reg rs)
  refine ⟨⟨_, rfl, rfl, hseq .lc⟩, ⟨_, rfl, rfl, hseq .au⟩, ⟨_, rfl, rfl, hseq .sp⟩, ⟨_, rfl, rfl, hseq .ta⟩,
    fun hsel => ⟨_, rfl, ?_, ?_⟩, fun hsel => ⟨_, rfl, ?_, ?_⟩, ⟨_, rfl, rfl, rfl, rfl, rfl, hseq .cc⟩,
    ⟨_, rfl, rfl, hseq .cs⟩, ⟨_, rfl, hseq .id⟩⟩
  · simp [State.setSreg_sa_of_clear hsel]
  · simpa [SReg.written, hsel] using hseq .sa
  · simp [State.setSreg_sa_of_set hsel]
  · simpa [SReg.written, hsel] using hseq .sa

/-! ## The constants of seven bits -/

theorem getLsbD_c7u (f : BitVec 7) (k : BitVec 2) : (c7u f).getLsbD k.toNat = f.getLsbD k.toNat := by
  have hk : k.toNat < 16 := by omega
  simp [c7u, hk]

theorem toNat_extractLsb'_c7u (f : BitVec 7) : ((c7u f).extractLsb' 5 11).toNat = f.toNat / 32 := by
  simp [c7u, BitVec.extractLsb'_toNat, Nat.shiftRight_eq_div_pow]
  omega

theorem toNat_c7un (f : BitVec 7) : (c7un f).toNat = if f = 0 then 128 else f.toNat := by
  unfold c7un
  split
  · rfl
  · exact BitVec.toNat_setWidth_of_le (by decide)

theorem toInt_c7sn (f : BitVec 7) : (c7sn f).toInt = signedNonzero f := by
  unfold c7sn signedNonzero
  split
  · rfl
  · exact BitVec.toInt_signExtend_of_le (by decide)

/-- Settles O35: the constants move as words do, and their values are those of R150 to R152. -/
theorem constantToSpecialRegister : Obligations.ConstantToSpecialRegister := by
  unfold Obligations.ConstantToSpecialRegister
  intro f s
  exact ⟨⟨_, rfl, getLsbD_c7u f _, getLsbD_c7u f _, getLsbD_c7u f _, getLsbD_c7u f _, sequential_setSreg s .cc _⟩,
    ⟨_, rfl, toNat_extractLsb'_c7u f, sequential_setSreg s .cs _⟩,
    ⟨_, rfl, toNat_c7un f, sequential_setSreg s .lc _⟩,
    ⟨_, rfl, toInt_c7sn f, sequential_setSreg s .au _⟩⟩

end Sys2Proof.Machine
end

section
/-! The additions, subtractions and comparisons in numbers (O37 to O39). The result of the shared operations is the
exact sum or difference modulo 2^16, and their flags, which the model computes from the top bits, are those of the numbers. -/

namespace Sys2Proof.Machine

/-! ## Words as numbers -/

theorem bitWord_eq_ofNat (b : Bool) : bitWord b = BitVec.ofNat 16 b.toNat := by cases b <;> rfl

theorem msb_eq_decide_toNat (v : Word) : v.msb = decide (32768 ≤ v.toNat) := BitVec.msb_eq_decide v

/-- The signed value of a word, for `omega`. -/
theorem toInt_word_cases (v : Word) :
    v.toNat < 32768 ∧ v.toInt = v.toNat ∨ 32768 ≤ v.toNat ∧ v.toInt = (v.toNat : Int) - 65536 := by
  have hv := BitVec.toInt_eq_toNat_cond v
  split at hv <;> omega

theorem eq_zero_iff_toNat (v : Word) : v = 0 ↔ v.toNat = 0 := BitVec.toNat_eq

/-! ## Sums and differences -/

section
variable (s1 s0 : Word) (cin bin zIn : Bool)

theorem exactSum_false : exactSum s1 s0 false = s1.toNat + s0.toNat := rfl

theorem exactDifference_false : exactDifference s1 s0 false = (s1.toNat : Int) - s0.toNat := Int.sub_zero _

theorem addResult_eq_ofNat : addResult s1 s0 cin = BitVec.ofNat 16 (exactSum s1 s0 cin) := by
  simp [addResult, exactSum, BitVec.ofNat_add, bitWord_eq_ofNat]

theorem subResult_eq_ofInt : subResult s1 s0 bin = BitVec.ofInt 16 (exactDifference s1 s0 bin) := by
  simp [subResult, exactDifference, sub_eq_add_neg, BitVec.ofInt_add, BitVec.ofInt_neg,
    bitWord_eq_ofNat]

theorem toNat_addResult : (addResult s1 s0 cin).toNat = exactSum s1 s0 cin % 65536 := by
  rw [addResult_eq_ofNat, BitVec.toNat_ofNat]

theorem toNat_subResult : ((subResult s1 s0 bin).toNat : Int) = exactDifference s1 s0 bin % 65536 := by
  rw [subResult_eq_ofInt, BitVec.toNat_ofInt]
  omega

/-- A full adder carries out of the top bit where two of the operands' top bits and the complement of the result's are
set; that is where the sum reaches 2^16. -/
theorem addFlags_c : (addFlags s1 s0 (addResult s1 s0 cin)).c = decide (65536 ≤ exactSum s1 s0 cin) := by
  have hr := toNat_addResult s1 s0 cin
  have hcin := cin.toNat_le
  simp only [addFlags, msb_eq_decide_toNat, ← decide_not, ← Bool.decide_and, ← Bool.decide_or, decide_eq_decide]
  unfold exactSum at *
  omega

/-- The sum leaves the signed range where both operands have one sign and the result the other. -/
theorem addFlags_o : (addFlags s1 s0 (addResult s1 s0 cin)).o =
    decide (s1.toInt + s0.toInt + cin.toNat < -32768 ∨ 32767 < s1.toInt + s0.toInt + cin.toNat) := by
  have hr := toNat_addResult s1 s0 cin
  have hcin := cin.toNat_le
  have h1 := toInt_word_cases s1
  have h0 := toInt_word_cases s0
  simp only [addFlags, msb_eq_decide_toNat, ← decide_not, ← Bool.decide_and, ← Bool.decide_or, decide_eq_decide]
  unfold exactSum at hr
  omega

theorem subFlags_c : (subFlags s1 s0 (subResult s1 s0 bin)).c = decide (s1.toNat < s0.toNat + bin.toNat) := by
  have hr := toNat_subResult s1 s0 bin
  have hbin := bin.toNat_le
  simp only [subFlags, msb_eq_decide_toNat, ← decide_not, ← Bool.decide_and, ← Bool.decide_or, decide_eq_decide]
  unfold exactDifference at hr
  omega

/-- The difference leaves the signed range where the operands' signs differ and the result's is the subtrahend's. -/
theorem subFlags_o : (subFlags s1 s0 (subResult s1 s0 bin)).o =
    decide (s1.toInt - s0.toInt - bin.toNat < -32768 ∨ 32767 < s1.toInt - s0.toInt - bin.toNat) := by
  have hr := toNat_subResult s1 s0 bin
  have hbin := bin.toNat_le
  have h1 := toInt_word_cases s1
  have h0 := toInt_word_cases s0
  simp only [subFlags, msb_eq_decide_toNat, ← decide_not, ← Bool.decide_and, ← Bool.decide_or, decide_eq_decide]
  unfold exactDifference at hr
  omega

theorem sticky_addFlags : (addFlags s1 s0 (addResult s1 s0 cin)).sticky zIn = sumFlags s1 s0 cin zIn := by
  have hz : (addResult s1 s0 cin == 0) = decide (exactSum s1 s0 cin % 65536 = 0) := by
    rw [← toNat_addResult, Bool.eq_iff_iff, beq_iff_eq, decide_eq_true_eq, eq_zero_iff_toNat]
  have hn : (addResult s1 s0 cin).msb = decide (32768 ≤ exactSum s1 s0 cin % 65536) := by
    rw [← toNat_addResult, msb_eq_decide_toNat]
  exact (Flags.mk.injEq ..).mpr ⟨addFlags_c s1 s0 cin, addFlags_o s1 s0 cin, congrArg (zIn && ·) hz, hn⟩

theorem sticky_subFlags : (subFlags s1 s0 (subResult s1 s0 bin)).sticky zIn = differenceFlags s1 s0 bin zIn := by
  have hz : (subResult s1 s0 bin == 0) = decide (exactDifference s1 s0 bin % 65536 = 0) := by
    rw [← toNat_subResult, Bool.eq_iff_iff, beq_iff_eq, decide_eq_true_eq, eq_zero_iff_toNat, Int.natCast_eq_zero]
  have hn : (subResult s1 s0 bin).msb = decide (32768 ≤ exactDifference s1 s0 bin % 65536) := by
    rw [← toNat_subResult, msb_eq_decide_toNat, decide_eq_decide]
    omega
  exact (Flags.mk.injEq ..).mpr ⟨subFlags_c s1 s0 bin, subFlags_o s1 s0 bin, congrArg (zIn && ·) hz, hn⟩

/-- The plain Z is the sticky one after a set Z (R222). -/
theorem Flags.sticky_true (f : Flags) : f.sticky true = f := by simp [Flags.sticky]

theorem addFlags_eq_sumFlags : addFlags s1 s0 (addResult s1 s0 cin) = sumFlags s1 s0 cin true := by
  rw [← sticky_addFlags, Flags.sticky_true]

theorem subFlags_eq_differenceFlags : subFlags s1 s0 (subResult s1 s0 bin) = differenceFlags s1 s0 bin true := by
  rw [← sticky_subFlags, Flags.sticky_true]

end

/-! ## What the shared operations leave -/

section
variable {i : Instr} {s : State}

/-- An instruction that puts a value in a general register, sets the condition codes and ends. -/
theorem yields_flags_of_done {rd : GReg} {v w : Word} {f g : Flags} (h : exec i s = done ((s.setReg rd v).setCc f))
    (hv : v = w) (hf : f = g) :
    ∃ t, exec i s = .next t ∧ t.reg rd = w ∧ t.cc = g ∧ Sequential [.reg rd, .cc] s t :=
  ⟨_, h, by simp [hv], hf, ((WritesAtMost.setReg s rd v).trans (.setCc _ f)).sequential⟩

/-- An instruction that sets the condition codes only and ends. -/
theorem flags_of_done {f g : Flags} (h : exec i s = done (s.setCc f)) (hf : f = g) :
    ∃ t, exec i s = .next t ∧ t.cc = g ∧ Sequential [.cc] s t :=
  ⟨_, h, hf, (WritesAtMost.setCc s f).sequential⟩

end

/-- C8UN by its value (R154). -/
theorem c8un_eq_ofNat (f : BitVec 8) : c8un f = BitVec.ofNat 16 (if f = 0 then 256 else f.toNat) := by
  unfold c8un
  split
  · rfl
  · exact (BitVec.ofNat_toNat 16 f).symm

/-- The negative form of C8A by its value (R155). -/
theorem c8aNeg_eq_ofInt (g : BitVec 6) : c8aNeg g = BitVec.ofInt 16 (g.toNat - 64) := by
  revert g
  decide

/-- Settles O37: every form is the shared addition or the one with carry, on its own operands. -/
theorem additions : Obligations.Additions := by
  unfold Obligations.Additions
  intro rs0 rs1 rd f s k hk
  obtain rfl : k = c8un f := hk.trans (c8un_eq_ofNat f).symm
  exact ⟨yields_flags_of_done rfl (addResult_eq_ofNat ..) (addFlags_eq_sumFlags ..),
    yields_flags_of_done rfl (addResult_eq_ofNat ..) (addFlags_eq_sumFlags ..),
    yields_flags_of_done rfl (addResult_eq_ofNat ..) (sticky_addFlags ..),
    yields_flags_of_done rfl (addResult_eq_ofNat ..) (sticky_addFlags ..)⟩

/-- Settles O38: every form is the shared subtraction or the one with borrow, on its own operands. -/
theorem subtractions : Obligations.Subtractions := by
  unfold Obligations.Subtractions
  intro rs0 rs1 rd f s k hk
  obtain rfl : k = c8un f := hk.trans (c8un_eq_ofNat f).symm
  exact ⟨yields_flags_of_done rfl (subResult_eq_ofInt ..) (subFlags_eq_differenceFlags ..),
    yields_flags_of_done rfl (subResult_eq_ofInt ..) (subFlags_eq_differenceFlags ..),
    yields_flags_of_done rfl (subResult_eq_ofInt ..) (sticky_subFlags ..),
    yields_flags_of_done rfl (subResult_eq_ofInt ..) (sticky_subFlags ..)⟩

/-- Settles O39: the flags of the subtractions, and no register is written. -/
theorem comparisons : Obligations.Comparisons := by
  unfold Obligations.Comparisons
  intro rs0 rs1 f g s
  rw [← c8aNeg_eq_ofInt, BitVec.ofNat_toNat]
  exact ⟨flags_of_done rfl (subFlags_eq_differenceFlags ..), flags_of_done rfl (subFlags_eq_differenceFlags ..),
    flags_of_done rfl (subFlags_eq_differenceFlags ..), flags_of_done rfl (sticky_subFlags ..),
    flags_of_done rfl (sticky_subFlags ..)⟩

end Sys2Proof.Machine
end

section
/-! The one-source computations (O40), the count of leading zeros (O41) and the address arithmetic (O42) in numbers. -/

namespace Sys2Proof.Machine

/-! ## Computations on one word -/

section
variable (v : Word)

/-- The negation of 0x8000 is 0x8000, which is its absolute value as a number too (R223). -/
theorem absWord_eq_ofNat : absWord v = BitVec.ofNat 16 v.toInt.natAbs := by
  apply BitVec.eq_of_toNat_eq
  have hv := toInt_word_cases v
  unfold absWord
  rw [msb_eq_decide_toNat, BitVec.toNat_ofNat]
  split <;> simp only [decide_eq_true_eq, BitVec.toNat_neg] at * <;> omega

theorem neg_eq_ofInt : -v = BitVec.ofInt 16 (-v.toInt) := by
  rw [BitVec.ofInt_neg, BitVec.ofInt_toInt]

/-- The sign word is the high word of the 32-bit sign extension (R238). -/
theorem signWord_eq_extractLsb' :
    (if v.msb then 0xFFFF else 0 : Word) = (BitVec.ofInt 32 v.toInt).extractLsb' 16 16 := by
  apply BitVec.eq_of_toNat_eq
  have hv := toInt_word_cases v
  rw [msb_eq_decide_toNat, BitVec.extractLsb'_toNat, BitVec.toNat_ofInt, Nat.shiftRight_eq_div_pow]
  split <;> simp only [decide_eq_true_eq, BitVec.ofNat_eq_ofNat, BitVec.reduceToNat] at * <;> omega

theorem not_eq_ofNat : ~~~v = BitVec.ofNat 16 (65535 - v.toNat) := by
  apply BitVec.eq_of_toNat_eq
  rw [BitVec.toNat_not, BitVec.toNat_ofNat]
  omega

end

/-- Settles O40: each puts its value in the register and ends, and the words are the groups of R125. -/
theorem unaryComputations : Obligations.UnaryComputations := by
  unfold Obligations.UnaryComputations
  rintro rs rd s v rfl
  rw [← absWord_eq_ofNat, ← neg_eq_ofInt, ← signWord_eq_extractLsb', ← not_eq_ofNat]
  exact ⟨yields_of_done rfl, yields_of_done rfl, yields_of_done rfl, yields_of_done rfl, yields_of_done rfl, rfl, rfl,
    rfl⟩

/-! ## Leading zeros -/

section
variable {w : Word}

theorem leadingZerosBelow_succ_of_set {n : Nat} (h : w.getLsbD n = true) : leadingZerosBelow w (n + 1) = 0 := by
  simp [leadingZerosBelow, h]

theorem leadingZerosBelow_succ_of_clear {n : Nat} (h : w.getLsbD n = false) :
    leadingZerosBelow w (n + 1) = leadingZerosBelow w n + 1 := by
  simp [leadingZerosBelow, h]

theorem leadingZerosBelow_le (w : Word) (n : Nat) : leadingZerosBelow w n ≤ n := by
  induction n with
  | zero => exact Nat.le_refl 0
  | succ n ih =>
    cases hbit : w.getLsbD n with
    | true => simp [leadingZerosBelow_succ_of_set hbit]
    | false => simpa [leadingZerosBelow_succ_of_clear hbit] using ih

/-- The counted bits are clear. -/
theorem getLsbD_eq_false_of_counted {n j : Nat} (hj : j < n) (hcount : n ≤ j + leadingZerosBelow w n) :
    w.getLsbD j = false := by
  induction n with
  | zero => omega
  | succ n ih =>
    cases hbit : w.getLsbD n with
    | true =>
      rw [leadingZerosBelow_succ_of_set hbit] at hcount
      omega
    | false =>
      rw [leadingZerosBelow_succ_of_clear hbit] at hcount
      obtain rfl | hlow := Nat.eq_or_lt_of_le (Nat.le_of_lt_succ hj)
      · exact hbit
      · exact ih hlow (by omega)

/-- The bit below the counted ones is set. -/
theorem getLsbD_eq_true_below_counted {n : Nat} (hlt : leadingZerosBelow w n < n) :
    w.getLsbD (n - 1 - leadingZerosBelow w n) = true := by
  induction n with
  | zero => omega
  | succ n ih =>
    cases hbit : w.getLsbD n with
    | true => simpa [leadingZerosBelow_succ_of_set hbit] using hbit
    | false =>
      rw [leadingZerosBelow_succ_of_clear hbit] at hlt ⊢
      rw [show n + 1 - 1 - (leadingZerosBelow w n + 1) = n - 1 - leadingZerosBelow w n by omega]
      exact ih (by omega)

theorem leadingZeros_eq_16_iff : leadingZerosBelow w 16 = 16 ↔ w = 0 := by
  constructor
  · intro h
    exact BitVec.eq_of_getLsbD_eq fun j hj => by simpa using getLsbD_eq_false_of_counted hj (by omega)
  · rintro rfl
    rfl

end

/-- Settles O41: the count is `leadingZerosBelow`, of which the bits are said above. -/
theorem countLeadingZeros : Obligations.CountLeadingZeros := by
  unfold Obligations.CountLeadingZeros
  intro rs rd s
  refine ⟨leadingZerosBelow (s.reg rs) 16, leadingZerosBelow_le _ 16, yields_of_done rfl, fun j hcount => ?_,
    getLsbD_eq_true_below_counted, leadingZeros_eq_16_iff, rfl⟩
  obtain hj | hj := Nat.lt_or_ge j 16
  · exact getLsbD_eq_false_of_counted hj hcount
  · exact BitVec.getLsbD_of_ge _ j hj

/-! ## Address arithmetic -/

theorem c16_eq_ofNat (c : BitVec 8) : c16 c = BitVec.ofNat 16 (256 * c.toNat) := by
  apply BitVec.eq_of_toNat_eq
  simp only [c16, BitVec.toNat_append, BitVec.toNat_ofNat, Nat.zero_mod, Nat.or_zero, Nat.shiftLeft_eq]
  omega

theorem c16_add_eq_ofNat (c : BitVec 8) (v : Word) : c16 c + v = BitVec.ofNat 16 (v.toNat + 256 * c.toNat) := by
  rw [BitVec.ofNat_add, BitVec.ofNat_toNat, BitVec.setWidth_eq, c16_eq_ofNat, BitVec.add_comm]

theorem add_c7sn_eq_ofInt (v : Word) (f : BitVec 7) : v + c7sn f = BitVec.ofInt 16 (v.toNat + signedNonzero f) := by
  rw [← toInt_c7sn, BitVec.ofInt_add, BitVec.ofInt_toInt, BitVec.ofInt_natCast, BitVec.ofNat_toNat, BitVec.setWidth_eq]

/-- Settles O42: both sums are those of the numbers, modulo 2^16. -/
theorem addressArithmetic : Obligations.AddressArithmetic := by
  unfold Obligations.AddressArithmetic
  intro c f rb ad s
  rw [← c16_add_eq_ofNat, ← add_c7sn_eq_ofInt]
  exact ⟨yields_of_done rfl, _, rfl, State.areg_setAreg s ad _,
    (WritesAtMost.setAreg s ad _).sequential (nextPc_setAreg s ad _)⟩

end Sys2Proof.Machine
end

section
/-! Addition, subtraction and comparison of 32-bit values, the low words first and then the high words with the carry or
borrow (O43, O44). A pair of words is its high word followed by its low word. -/

namespace Sys2Proof.Machine

/-! ## Pairs of words as numbers -/

theorem toNat_pair (hi lo : Word) : (hi ++ lo).toNat = 65536 * hi.toNat + lo.toNat := by
  rw [BitVec.toNat_append, ← Nat.shiftLeft_add_eq_or_of_lt lo.isLt, Nat.shiftLeft_eq, Nat.mul_comm]

theorem toInt_pair (hi lo : Word) : (hi ++ lo).toInt = 65536 * hi.toInt + lo.toNat := BitVec.toInt_append

theorem msb_pair (hi lo : Word) : (hi ++ lo).msb = hi.msb := BitVec.msb_append (x := hi) (y := lo)

theorem pair_eq_zero (hi lo : Word) : (lo == 0 && hi == 0) = decide ((hi ++ lo : BitVec 32) = 0) := by
  rw [Bool.eq_iff_iff, Bool.and_eq_true, beq_iff_eq, beq_iff_eq, decide_eq_true_eq, eq_zero_iff_toNat,
    eq_zero_iff_toNat, BitVec.toNat_eq, toNat_pair, BitVec.ofNat_eq_ofNat, BitVec.toNat_zero]
  omega

/-! ## Sums of pairs -/

section
variable {a1 a0 b1 b0 : Word} {carry : Bool} (hcarry : carry = decide (65536 ≤ exactSum b0 a0 false))
include hcarry

/-- The carry out of the low words is their sum's part above bit 15. -/
theorem toNat_carry : carry.toNat = exactSum b0 a0 false / 65536 := by
  subst hcarry
  rw [exactSum_false, Bool.toNat, Bool.cond_decide]
  split <;> omega

/-- The sum of two pairs, by the sum of the high words with the carry and the rest of the sum of the low words. -/
theorem toNat_pair_add :
    (b1 ++ b0).toNat + (a1 ++ a0).toNat = 65536 * exactSum b1 a1 carry + exactSum b0 a0 false % 65536 := by
  have hc := toNat_carry hcarry
  rw [exactSum_false] at hc ⊢
  rw [toNat_pair, toNat_pair, exactSum]
  omega

theorem toInt_pair_add :
    (b1 ++ b0).toInt + (a1 ++ a0).toInt =
      65536 * (b1.toInt + a1.toInt + carry.toNat) + (exactSum b0 a0 false % 65536 : Nat) := by
  have hc := toNat_carry hcarry
  rw [exactSum_false] at hc ⊢
  rw [toInt_pair, toInt_pair]
  omega

theorem addResult_pair : addResult b1 a1 carry ++ addResult b0 a0 false = (b1 ++ b0) + (a1 ++ a0) := by
  apply BitVec.eq_of_toNat_eq
  rw [toNat_pair, toNat_addResult, toNat_addResult, BitVec.toNat_add, toNat_pair_add hcarry]
  omega

theorem addFlags_c_pair :
    (addFlags b1 a1 (addResult b1 a1 carry)).c = decide (2 ^ 32 ≤ (b1 ++ b0).toNat + (a1 ++ a0).toNat) := by
  rw [addFlags_c, toNat_pair_add hcarry, decide_eq_decide]
  omega

theorem addFlags_o_pair :
    (addFlags b1 a1 (addResult b1 a1 carry)).o =
      decide ((b1 ++ b0).toInt + (a1 ++ a0).toInt < -2 ^ 31 ∨ 2 ^ 31 ≤ (b1 ++ b0).toInt + (a1 ++ a0).toInt) := by
  rw [addFlags_o, toInt_pair_add hcarry, decide_eq_decide]
  omega

/-- The sticky Z of the high words, after the plain Z of the low words (R222). -/
theorem addFlags_z_pair :
    ((addFlags b1 a1 (addResult b1 a1 carry)).sticky (addResult b0 a0 false == 0)).z =
      decide ((b1 ++ b0 : BitVec 32) + (a1 ++ a0) = 0) := by
  rw [← addResult_pair hcarry]
  exact pair_eq_zero ..

theorem addFlags_n_pair : (addFlags b1 a1 (addResult b1 a1 carry)).n = ((b1 ++ b0) + (a1 ++ a0)).msb := by
  rw [← addResult_pair hcarry]
  exact (msb_pair ..).symm

end

/-! ## Differences of pairs -/

section
variable {a1 a0 b1 b0 : Word} {borrow : Bool} (hborrow : borrow = decide (b0.toNat < a0.toNat))
include hborrow

/-- The borrow of the low words is their difference's part above bit 15, which is negative. -/
theorem toNat_borrow : (borrow.toNat : Int) = -(exactDifference b0 a0 false / 65536) := by
  subst hborrow
  rw [exactDifference_false, Bool.toNat, Bool.cond_decide]
  split <;> omega

/-- The difference of two pairs, by the difference of the high words with the borrow and the difference of the low words
modulo 2^16. -/
theorem toNat_pair_sub :
    ((b1 ++ b0).toNat : Int) - (a1 ++ a0).toNat =
      65536 * exactDifference b1 a1 borrow + exactDifference b0 a0 false % 65536 := by
  have hb := toNat_borrow hborrow
  rw [exactDifference_false] at hb ⊢
  rw [toNat_pair, toNat_pair, exactDifference]
  omega

theorem toInt_pair_sub :
    (b1 ++ b0).toInt - (a1 ++ a0).toInt =
      65536 * (b1.toInt - a1.toInt - borrow.toNat) + exactDifference b0 a0 false % 65536 := by
  have hb := toNat_borrow hborrow
  rw [exactDifference_false] at hb ⊢
  rw [toInt_pair, toInt_pair]
  omega

theorem subResult_pair : subResult b1 a1 borrow ++ subResult b0 a0 false = (b1 ++ b0) - (a1 ++ a0) := by
  apply BitVec.eq_of_toNat_eq
  have hdiff := toNat_pair_sub (b1 := b1) (a1 := a1) hborrow
  have hhigh := toNat_subResult b1 a1 borrow
  have hlow := toNat_subResult b0 a0 false
  rw [toNat_pair, BitVec.toNat_sub]
  omega

theorem subFlags_c_pair :
    (subFlags b1 a1 (subResult b1 a1 borrow)).c = decide ((b1 ++ b0).toNat < (a1 ++ a0).toNat) := by
  have hdiff := toNat_pair_sub (b1 := b1) (a1 := a1) hborrow
  rw [subFlags_c, decide_eq_decide]
  unfold exactDifference at hdiff
  omega

theorem subFlags_o_pair :
    (subFlags b1 a1 (subResult b1 a1 borrow)).o =
      decide ((b1 ++ b0).toInt - (a1 ++ a0).toInt < -2 ^ 31 ∨ 2 ^ 31 ≤ (b1 ++ b0).toInt - (a1 ++ a0).toInt) := by
  rw [subFlags_o, toInt_pair_sub hborrow, decide_eq_decide]
  omega

theorem subFlags_z_pair :
    ((subFlags b1 a1 (subResult b1 a1 borrow)).sticky (subResult b0 a0 false == 0)).z =
      decide (b1 ++ b0 = a1 ++ a0) :=
  calc
    _ = decide ((subResult b1 a1 borrow ++ subResult b0 a0 false : BitVec 32) = 0) := pair_eq_zero ..
    _ = decide ((b1 ++ b0 : BitVec 32) - (a1 ++ a0) = 0) := by rw [subResult_pair hborrow]
    _ = decide (b1 ++ b0 = a1 ++ a0) := decide_eq_decide.2 sub_eq_zero

theorem subFlags_n_pair : (subFlags b1 a1 (subResult b1 a1 borrow)).n = ((b1 ++ b0) - (a1 ++ a0)).msb := by
  rw [← subResult_pair hborrow]
  exact (msb_pair ..).symm

end

/-! ## The statements -/

/-- Settles O43: `addt` leaves the source registers of `addc` and hands it the carry and the Z of the low words. -/
theorem doubleAdd : Obligations.DoubleAdd := by
  unfold Obligations.DoubleAdd
  rintro a0 a1 b0 b1 d0 d1 s _ _ ha1 hb1 hd1 rfl rfl
  obtain ⟨t, hlow, hd0, htcc, hframe⟩ := yields_flags_of_done (i := .addt a0 b0 d0) (s := s) rfl rfl rfl
  obtain ⟨u, hhigh, hd1', hucc, hframe'⟩ := yields_flags_of_done (i := .addc a1 b1 d1) (s := t) rfl rfl rfl
  have hcarry : t.cc.c = decide (65536 ≤ exactSum (s.reg b0) (s.reg a0) false) := htcc ▸ addFlags_c ..
  have hz : t.cc.z = (addResult (s.reg b0) (s.reg a0) false == 0) := congrArg Flags.z htcc
  rw [hframe.frame.reg a1 (by simpa using ha1.symm), hframe.frame.reg b1 (by simpa using hb1.symm)] at hd1' hucc
  have hresult : u.reg d1 ++ u.reg d0 = (s.reg b1 ++ s.reg b0) + (s.reg a1 ++ s.reg a0) := by
    rw [hd1', hframe'.frame.reg d0 (by simpa using hd1), hd0, addResult_pair hcarry]
  rw [hz] at hucc
  refine ⟨t, u, hlow, hhigh, hresult, ?_, ?_, ?_, ?_⟩ <;> rw [hucc]
  exacts [addFlags_c_pair hcarry, addFlags_o_pair hcarry, addFlags_z_pair hcarry, addFlags_n_pair hcarry]

/-- Settles O44: as O43, with the borrow; the comparisons compute the same flags and leave every register. -/
theorem doubleSubtract : Obligations.DoubleSubtract := by
  unfold Obligations.DoubleSubtract
  rintro a0 a1 b0 b1 d0 d1 s _ _ ha1 hb1 hd1 rfl rfl
  obtain ⟨t, hlow, hd0, htcc, hframe⟩ := yields_flags_of_done (i := .subf a0 b0 d0) (s := s) rfl rfl rfl
  obtain ⟨u, hhigh, hd1', hucc, hframe'⟩ := yields_flags_of_done (i := .subc a1 b1 d1) (s := t) rfl rfl rfl
  obtain ⟨t', hcomp, htcc', hregs⟩ := flags_of_done (i := .comp a0 b0) (s := s) rfl rfl
  obtain ⟨u', hcmpc, hucc', -⟩ := flags_of_done (i := .cmpc a1 b1) (s := t') rfl rfl
  have hborrow : t.cc.c = decide ((s.reg b0).toNat < (s.reg a0).toNat) := htcc ▸ subFlags_c ..
  have hz : t.cc.z = (subResult (s.reg b0) (s.reg a0) false == 0) := congrArg Flags.z htcc
  rw [hframe.frame.reg a1 (by simpa using ha1.symm), hframe.frame.reg b1 (by simpa using hb1.symm)] at hd1' hucc
  rw [hregs.frame.reg a1 (by simp), hregs.frame.reg b1 (by simp), htcc', ← htcc, ← hucc] at hucc'
  have hresult : u.reg d1 ++ u.reg d0 = (s.reg b1 ++ s.reg b0) - (s.reg a1 ++ s.reg a0) := by
    rw [hd1', hframe'.frame.reg d0 (by simpa using hd1), hd0, subResult_pair hborrow]
  rw [hz] at hucc
  refine ⟨t, u, t', u', hlow, hhigh, hcomp, hcmpc, hresult, ?_, ?_, ?_, ?_, hucc'⟩ <;> rw [hucc]
  exacts [subFlags_c_pair hborrow, subFlags_o_pair hborrow, subFlags_z_pair hborrow, subFlags_n_pair hborrow]

end Sys2Proof.Machine
end

section
/-! A comparison and then a branch (O52): what the flags of a difference say about the order of its operands, and where
a branch on them goes. -/

namespace Sys2Proof.Machine

/-! ## The flags of a comparison as orders -/

section
variable (s1 s0 : Word)

theorem differenceFlags_c : (differenceFlags s1 s0 false true).c = decide (s1.toNat < s0.toNat) := rfl

theorem differenceFlags_z : (differenceFlags s1 s0 false true).z = decide (s1 = s0) := by
  rw [differenceFlags, exactDifference_false, Bool.true_and, decide_eq_decide, BitVec.toNat_eq]
  omega

/-- The sign of the difference is wrong just where the difference leaves the signed range. -/
theorem differenceFlags_n_ne_o :
    ((differenceFlags s1 s0 false true).n != (differenceFlags s1 s0 false true).o) = decide (s1.toInt < s0.toInt) := by
  have h1 := toInt_word_cases s1
  have h0 := toInt_word_cases s0
  rw [Bool.eq_iff_iff, bne_iff_ne, decide_eq_true_iff]
  simp only [differenceFlags, exactDifference_false, Bool.toNat_false, ne_eq, decide_eq_decide]
  omega

end

/-! ## The conditions, from C, Z and N ≠ O (R300 to R305) -/

section
variable (f : Flags)

theorem condLo_eq : condLo f = (f.n != f.o) := by
  unfold condLo
  cases f.n <;> cases f.o <;> rfl

theorem condHi_eq_not_condLs : condHi f = !condLs f := (Bool.not_or ..).symm

theorem condGe_eq_not_condLo : condGe f = !condLo f := by
  unfold condGe condLo
  cases f.n <;> cases f.o <;> rfl

theorem condLe_eq : condLe f = (f.z || condLo f) := Bool.or_assoc ..

theorem condGt_eq_not_condLe : condGt f = !condLe f := by
  rw [condLe_eq, Bool.not_or, ← condGe_eq_not_condLo]
  rfl

end

section
variable (s1 s0 : Word)

theorem condLs_differenceFlags : condLs (differenceFlags s1 s0 false true) = decide (s1.toNat ≤ s0.toNat) := by
  rw [condLs, differenceFlags_c, differenceFlags_z, ← Bool.decide_or, decide_eq_decide, BitVec.toNat_eq]
  omega

theorem condLo_differenceFlags : condLo (differenceFlags s1 s0 false true) = decide (s1.toInt < s0.toInt) :=
  (condLo_eq _).trans (differenceFlags_n_ne_o s1 s0)

theorem condLe_differenceFlags : condLe (differenceFlags s1 s0 false true) = decide (s1.toInt ≤ s0.toInt) := by
  rw [condLe_eq, condLo_differenceFlags, differenceFlags_z, ← Bool.decide_or, decide_eq_decide, ← BitVec.toInt_inj]
  omega

theorem condNc_differenceFlags : condNc (differenceFlags s1 s0 false true) = decide (s0.toNat ≤ s1.toNat) := by
  rw [condNc, differenceFlags_c, ← decide_not, decide_eq_decide, Nat.not_lt]

theorem condHi_differenceFlags : condHi (differenceFlags s1 s0 false true) = decide (s0.toNat < s1.toNat) := by
  rw [condHi_eq_not_condLs, condLs_differenceFlags, ← decide_not, decide_eq_decide, Nat.not_le]

theorem condNz_differenceFlags : condNz (differenceFlags s1 s0 false true) = decide (s1 ≠ s0) := by
  rw [condNz, differenceFlags_z, ← decide_not]

theorem condGe_differenceFlags : condGe (differenceFlags s1 s0 false true) = decide (s0.toInt ≤ s1.toInt) := by
  rw [condGe_eq_not_condLo, condLo_differenceFlags, ← decide_not, decide_eq_decide, Int.not_lt]

theorem condGt_differenceFlags : condGt (differenceFlags s1 s0 false true) = decide (s0.toInt < s1.toInt) := by
  rw [condGt_eq_not_condLe, condLe_differenceFlags, ← decide_not, decide_eq_decide, Int.not_le]

end

/-! ## Branches -/

theorem add_io8s_eq_branchTarget (pc : Word) (f : BitVec 8) : pc + io8s f = branchTarget pc f := by
  simp [branchTarget, io8s, BitVec.signExtend, BitVec.ofInt_add]

/-- Where a branch goes in the running state (R291). -/
theorem branchIf_next_pc {t : State} (hrun : t.run = .running) (taken : Bool) (f : BitVec 8) :
    ∃ u, branchIf taken f t = .next u ∧ u.pc = if taken then branchTarget t.pc f else t.pc + 1 :=
  ⟨_, branchIf_next_iff.2 ⟨hrun, rfl⟩, by rw [add_io8s_eq_branchTarget]⟩

/-- Settles O52: the comparison leaves the flags of the difference and the processor running, and each branch tests its
condition on them. -/
theorem compareAndBranch : Obligations.CompareAndBranch := by
  unfold Obligations.CompareAndBranch
  intro rs0 rs1 f s hrun
  obtain ⟨t, hcomp, hcc, hframe⟩ :=
    flags_of_done (i := .comp rs0 rs1) (s := s) rfl (subFlags_eq_differenceFlags (s.reg rs1) (s.reg rs0) false)
  have hpc : t.pc = s.pc + 1 := by rw [hframe.pc, nextPc, hrun]
  have hnext : s.pc + 1 + 1 = s.pc + 2 := BitVec.add_assoc ..
  have hbranch {i : Instr} {cond : Flags → Bool} {b : Bool} (hi : exec i t = branchIf (cond t.cc) f t)
      (hb : cond (differenceFlags (s.reg rs1) (s.reg rs0) false true) = b) :
      ∃ u, exec i t = .next u ∧ u.pc = if b then branchTarget (s.pc + 1) f else s.pc + 2 := by
    rw [hi, hcc, hb, ← hnext, ← hpc]
    exact branchIf_next_pc ((hframe.frame.run (by simp)).trans hrun) b f
  refine ⟨t, hcomp, ?_⟩
  simp only [List.forall_mem_cons, List.not_mem_nil, false_implies, implies_true, and_true]
  exact ⟨hbranch rfl (condNc_differenceFlags ..), hbranch rfl (differenceFlags_c ..),
    hbranch rfl (condNz_differenceFlags ..), hbranch rfl (differenceFlags_z ..), hbranch rfl (condLs_differenceFlags ..),
    hbranch rfl (condHi_differenceFlags ..), hbranch rfl (condLo_differenceFlags ..),
    hbranch rfl (condGe_differenceFlags ..), hbranch rfl (condLe_differenceFlags ..),
    hbranch rfl (condGt_differenceFlags ..)⟩

end Sys2Proof.Machine
end

section
/-! The logic instructions (O45, O46) and the bit instructions (O48, O49) bit by bit, and the shifts (O47) in numbers. -/

namespace Sys2Proof.Machine

/-! ## Operands -/

theorem c8u_eq_ofNat (f : BitVec 8) : c8u f = BitVec.ofNat 16 f.toNat := (BitVec.ofNat_toNat 16 f).symm

/-- The zero extension of C8U adds no set bit (R153). -/
theorem getLsbD_c8u (f : BitVec 8) (j : Nat) : (c8u f).getLsbD j = f.getLsbD j := by
  rw [c8u, BitVec.getLsbD_setWidth, Bool.and_eq_right_iff_imp, decide_eq_true_iff]
  exact fun hbit => Nat.lt_trans (BitVec.lt_of_getLsbD hbit) (by decide)

/-- A count or index in a register is bits [3:0] of it (R254, R259). -/
theorem toNat_countOf (v : Word) : (countOf v).toNat = v.toNat % 16 := BitVec.extractLsb'_toNat 0 4 v

theorem msb_eq_getLsbD_15 (v : Word) : v.msb = v.getLsbD 15 := BitVec.msb_eq_getLsbD_last v

/-! ## Parity -/

/-- The exclusive or of the low bits says whether the number of set ones among them is odd. -/
theorem parityBelow_eq_decide (w : Word) (n : Nat) :
    parityBelow w n = decide (((List.range n).filter fun j => w.getLsbD j).length % 2 = 1) := by
  induction n with
  | zero => rfl
  | succ n ih =>
    rw [parityBelow_succ, ih, List.range_succ, List.filter_append, List.length_append]
    cases hbit : w.getLsbD n with
    | false => simp [hbit]
    | true => simp [hbit, Nat.succ_mod_two_eq_one_iff, ← decide_not]

theorem parity_eq_decide (w : Word) : parity w = decide (setBits w % 2 = 1) := parityBelow_eq_decide w 16

/-! ## Logic -/

/-- What both forms of `andb` leave. -/
theorem bits_flags_of_andInto {i : Instr} {s : State} {rd : GReg} {s1 s0 : Word} (h : exec i s = andInto s1 s0 rd s) :
    ∃ t r, exec i s = .next t ∧ t.reg rd = r ∧ (∀ j, r.getLsbD j = (s1.getLsbD j && s0.getLsbD j)) ∧
      t.cc.c = decide (setBits r % 2 = 1) ∧ t.cc.o = (decide (setBits r % 2 = 1) ^^ s.cc.c) ∧
      t.cc.z = decide (r = 0) ∧ t.cc.n = r.getLsbD 15 ∧ Sequential [.reg rd, .cc] s t := by
  obtain ⟨t, hnext, hreg, hcc, hseq⟩ := yields_flags_of_done h rfl rfl
  refine ⟨t, s1 &&& s0, hnext, hreg, fun _ => BitVec.getLsbD_and, ?_⟩
  rw [← parity_eq_decide, ← msb_eq_getLsbD_15, hcc]
  exact ⟨rfl, rfl, rfl, rfl, hseq⟩

/-- Settles O45: both forms are the shared conjunction, on their own operands. -/
theorem andWithParity : Obligations.AndWithParity := by
  unfold Obligations.AndWithParity
  intro rs0 rs1 rd f s
  rw [← c8u_eq_ofNat]
  simp only [List.forall_mem_cons, List.not_mem_nil, false_implies, implies_true, and_true]
  exact ⟨bits_flags_of_andInto rfl, bits_flags_of_andInto rfl⟩

/-- Settles O46: each puts the bitwise combination of its operands in the register and ends. -/
theorem orAndExclusiveOr : Obligations.OrAndExclusiveOr := by
  unfold Obligations.OrAndExclusiveOr
  intro rs0 rs1 rd f s
  refine ⟨⟨_, yields_of_done rfl, fun _ => BitVec.getLsbD_or⟩, ⟨_, yields_of_done rfl, fun j => ?_⟩,
    ⟨_, yields_of_done rfl, fun _ => BitVec.getLsbD_xor⟩⟩
  rw [BitVec.getLsbD_or, getLsbD_c8u]

/-! ## Shifts -/

section
variable (v : Word) (c : BitVec 4)

theorem shiftLeft_eq_ofNat : shiftLeft v c = BitVec.ofNat 16 (v.toNat * 2 ^ c.toNat) :=
  congrArg (BitVec.ofNat 16) (Nat.shiftLeft_eq ..)

theorem shiftRight_eq_ofNat : shiftRight v c = BitVec.ofNat 16 (v.toNat / 2 ^ c.toNat) := by
  rw [← Nat.shiftRight_eq_div_pow, ← BitVec.toNat_ushiftRight, BitVec.ofNat_toNat, BitVec.setWidth_eq, shiftRight]

/-- The signed shift rounds toward minus infinity (R257), as the division of `Int` by a positive number does. -/
theorem shiftRightSigned_eq_ofInt : shiftRightSigned v c = BitVec.ofInt 16 (v.toInt / 2 ^ c.toNat) :=
  congrArg (BitVec.ofInt 16) ((Int.shiftRight_eq_div_pow ..).trans (by rw [Nat.cast_pow, Nat.cast_ofNat]))

theorem rotateLeft_eq : rotateLeft v c = v.rotateLeft c.toNat :=
  (BitVec.rotateLeft_eq_rotateLeftAux_of_lt (by omega)).symm

end

/-- Settles O47: every form puts a shift of its data in the register and ends, by the constant or by `countOf` Rs0. -/
theorem shifts : Obligations.Shifts := by
  unfold Obligations.Shifts
  intro rs0 rs1 rd k s c hc
  obtain rfl : c = (countOf (s.reg rs0)).toNat := hc.trans (toNat_countOf _).symm
  simp only [← shiftLeft_eq_ofNat, ← shiftRight_eq_ofNat, ← shiftRightSigned_eq_ofInt, ← rotateLeft_eq]
  exact ⟨yields_of_done rfl, yields_of_done rfl, yields_of_done rfl, yields_of_done rfl, yields_of_done rfl,
    yields_of_done rfl, yields_of_done rfl, yields_of_done rfl⟩

/-! ## Bits -/

section
variable (v : Word) (i : BitVec 4)

theorem bitMask_eq_twoPow : bitMask i = BitVec.twoPow 16 i.toNat := (BitVec.twoPow_eq ..).symm

theorem getLsbD_bitMask (j : Nat) : (bitMask i).getLsbD j = decide (j = i.toNat) := by
  rw [bitMask_eq_twoPow, BitVec.getLsbD_twoPow, decide_eq_true i.isLt, Bool.true_and, decide_eq_decide, eq_comm]

theorem getLsbD_bitClear (j : Nat) : (bitClear v i).getLsbD j = if j = i.toNat then false else v.getLsbD j := by
  rw [bitClear, BitVec.getLsbD_and, BitVec.getLsbD_not, getLsbD_bitMask]
  split
  · simp [*]
  · simpa [*] using BitVec.lt_of_getLsbD

theorem getLsbD_bitSet (j : Nat) : (bitSet v i).getLsbD j = if j = i.toNat then true else v.getLsbD j := by
  rw [bitSet, BitVec.getLsbD_or, getLsbD_bitMask]
  split <;> simp [*]

theorem getLsbD_bitToggle (j : Nat) :
    (bitToggle v i).getLsbD j = if j = i.toNat then !v.getLsbD j else v.getLsbD j := by
  rw [bitToggle, BitVec.getLsbD_xor, getLsbD_bitMask]
  split <;> simp [*]

/-- The tested bit, left in place, is zero just where the bit is clear. -/
theorem bitTestFlags_z : (bitTestFlags (v &&& bitMask i)).z = !v.getLsbD i.toNat := by
  rw [bitTestFlags, bitMask_eq_twoPow, BitVec.and_twoPow]
  cases v.getLsbD i.toNat with
  | false => rfl
  | true => revert i; decide

theorem bitTestFlags_n : (bitTestFlags (v &&& bitMask i)).n = (decide (i.toNat = 15) && v.getLsbD 15) := by
  simp only [bitTestFlags]
  rw [msb_eq_getLsbD_15, BitVec.getLsbD_and, getLsbD_bitMask, Bool.and_comm]
  simp only [eq_comm]

end

/-- Settles O48: every form puts its data with the one bit changed in the register and ends. -/
theorem bitChanges : Obligations.BitChanges := by
  unfold Obligations.BitChanges
  intro rs0 rs1 rd k s c hc
  obtain rfl : c = (countOf (s.reg rs0)).toNat := hc.trans (toNat_countOf _).symm
  exact ⟨⟨_, yields_of_done rfl, getLsbD_bitClear _ _⟩, ⟨_, yields_of_done rfl, getLsbD_bitSet _ _⟩,
    ⟨_, yields_of_done rfl, getLsbD_bitToggle _ _⟩, ⟨_, yields_of_done rfl, getLsbD_bitClear _ _⟩,
    ⟨_, yields_of_done rfl, getLsbD_bitSet _ _⟩, ⟨_, yields_of_done rfl, getLsbD_bitToggle _ _⟩⟩

/-- What both forms of `btts` leave. -/
theorem flags_of_bitTest {i : Instr} {s : State} {v : Word} {k : BitVec 4}
    (h : exec i s = done (s.setCc (bitTestFlags (v &&& bitMask k)))) :
    ∃ t, exec i s = .next t ∧ t.cc.c = false ∧ t.cc.o = false ∧ t.cc.z = !v.getLsbD k.toNat ∧
      t.cc.n = (decide (k.toNat = 15) && v.getLsbD 15) ∧ Sequential [.cc] s t := by
  obtain ⟨t, hnext, hcc, hseq⟩ := flags_of_done h rfl
  rw [← bitTestFlags_z, ← bitTestFlags_n, ← hcc]
  exact ⟨t, hnext, congrArg Flags.c hcc, congrArg Flags.o hcc, rfl, rfl, hseq⟩

/-- Settles O49: both forms set the flags of the tested bit, and the words are those of O5. -/
theorem bitTest : Obligations.BitTest := by
  unfold Obligations.BitTest
  intro rs0 rs1 k s c hc
  obtain rfl : c = (countOf (s.reg rs0)).toNat := hc.trans (toNat_countOf _).symm
  obtain ⟨-, hword, -, -, -, -, -, hcounts, -⟩ := registerWords s.cfg.enc rs0 rs1 rs1 k 0 0 .sp .cc
  have hwordConst := hcounts (.bttsConst k rs1, 0b10110#5) (by simp)
  simp only [List.forall_mem_cons, List.not_mem_nil, false_implies, implies_true, and_true, hword, hwordConst]
  exact ⟨flags_of_bitTest rfl, flags_of_bitTest rfl⟩

end Sys2Proof.Machine
end

section
/-! The multiplies (O50). A product of two words, exact in 32 bits, is its quotient and its remainder by 2^16, and these
are its high and its low word. -/

namespace Sys2Proof.Machine

/-! ## A number as a pair of words -/

theorem toNat_pair_ofNat {n : Nat} (h : n < 2 ^ 32) :
    (BitVec.ofNat 16 (n / 65536) ++ BitVec.ofNat 16 n).toNat = n := by
  rw [toNat_pair, BitVec.toNat_ofNat, BitVec.toNat_ofNat]
  omega

theorem toInt_pair_ofInt {p : Int} (hlow : -2 ^ 31 ≤ p) (hhigh : p < 2 ^ 31) :
    (BitVec.ofInt 16 (p / 65536) ++ BitVec.ofInt 16 p).toInt = p := by
  rw [toInt_pair, BitVec.toInt_ofInt_eq_self (by decide) (by omega) (by omega), BitVec.toNat_ofInt]
  omega

/-! ## Exact products -/

section
variable (x y : Word)

theorem toNat_product : (BitVec.ofNat 16 (x.toNat * y.toNat / 65536) ++ x * y).toNat = x.toNat * y.toNat := by
  have hlow : x * y = BitVec.ofNat 16 (x.toNat * y.toNat) := by simp [BitVec.ofNat_mul]
  rw [hlow, toNat_pair_ofNat BitVec.toNat_mul_toNat_lt]

/-- The low word does not depend on the signs: modulo 2^16 a word is its signed value. -/
theorem toInt_product : (BitVec.ofInt 16 (x.toInt * y.toInt / 65536) ++ x * y).toInt = x.toInt * y.toInt := by
  have hlow : x * y = BitVec.ofInt 16 (x.toInt * y.toInt) := by simp [BitVec.ofInt_mul]
  have hleast : -2 ^ 30 ≤ x.toInt * y.toInt := BitVec.le_toInt_mul_toInt
  have hgreatest : x.toInt * y.toInt ≤ 2 ^ 30 := BitVec.toInt_mul_toInt_le
  rw [hlow, toInt_pair_ofInt (by omega) (by omega)]

end

/-- Settles O50: each multiply puts its word of the product in the register and ends, and the words are those of O5. -/
theorem multiplies : Obligations.Multiplies := by
  unfold Obligations.Multiplies
  intro rs0 rs1 rd s
  obtain ⟨hword, -⟩ := registerWords s.cfg.enc rs0 rs1 rd 0 0 0 .sp .cc
  exact ⟨_, _, _, yields_of_done rfl, yields_of_done rfl, yields_of_done rfl, toNat_product .., toInt_product ..,
    hword (.mult rs0 rs1 rd, 0b00#2, 0b10010#5) (by simp), hword (.mlhu rs0 rs1 rd, 0b10#2, 0b00010#5) (by simp),
    hword (.mlhs rs0 rs1 rd, 0b10#2, 0b00110#5) (by simp)⟩

end Sys2Proof.Machine
end

section
/-! Flow control: where pc goes after every instruction (O23), the branches (O51, O53), the jumps (O54), the flags of CS
and IAH (O55), `stop` (O57) and `rtir` (O58). -/

namespace Sys2Proof.Machine

/-! ## Where pc goes -/

section
variable {s t u : State}

theorem done_next_pc (h : done u = .next t) (hu : nextPc u = nextPc s := by rfl) : t.pc = nextPc s := by
  rw [done_next_iff.1 h, advancePc_pc, hu]

theorem loadReg_next_pc {z : Size} {m : Mode} {rd : GReg} (h : loadReg z m rd s = .next t) : t.pc = nextPc s := by
  obtain ⟨-, rfl⟩ := loadReg_next_iff.1 h
  exact nextPc_applyUpdate

theorem storeReg_next_pc {z : Size} {m : Mode} {rs : GReg} (h : storeReg z m rs s = .next t) : t.pc = nextPc s :=
  done_next_pc h (nextPc_applyUpdate.trans (nextPc_store s z _ _))

theorem loadRgs_next_pc {z : Size} {an : AReg} {sel : BitVec 7} (h : loadRgs z an sel s = .next t) :
    t.pc = nextPc s := by
  obtain ⟨-, -, rfl⟩ := loadRgs_next_iff.1 h
  exact (nextPc_setAreg _ an _).trans (nextPc_loadSlots z _ _ s)

theorem storeRgs_next_pc {z : Size} {sel : BitVec 7} {an : AReg} (h : storeRgs z sel an s = .next t) :
    t.pc = nextPc s := by
  obtain ⟨-, rfl⟩ := storeRgs_next_iff.1 h
  exact (nextPc_setAreg _ an _).trans (nextPc_storeSlots z _ _ s)

/-- Every instruction but the control transfers and `rspc` ends sequentially: what it writes before its end is neither pc
nor the run state, and `stop` writes the run state after it. -/
theorem exec_next_pc_of_not_isTransfer {i : Instr} (ht : isTransfer i = false) (hi : i ≠ .rspc)
    (h : exec i s = .next t) : t.pc = nextPc s := by
  cases i with
  | rspc => exact absurd rfl hi
  | brnc | brcr | brno | brof | brnz | brzr | brps | brng | brls | brhi | brlo | brge | brle | brgt | bral | brlc
  | jumpIa12 | jpsrIa12 | jumpTa | jpsrTa | rtsr | rtir => cases ht
  | ldbtDirect | ldshDirect => exact loadReg_next_pc (m := .direct _) h
  | ldbtOffset | ldshOffset => exact loadReg_next_pc (m := .offset _ _) h
  | ldbtIndex | ldshIndex => exact loadReg_next_pc (m := .index _ _) h
  | ldbtPostInc | ldbtPreDec | ldbtPostUpd | ldshPostInc | ldshPreDec | ldshPostUpd => exact loadReg_next_pc h
  | stbtDirect | stbtOffset | stbtIndex | stbtPostInc | stbtPreDec | stbtPostUpd
  | stshDirect | stshOffset | stshIndex | stshPostInc | stshPreDec | stshPostUpd => exact storeReg_next_pc h
  | ldbtRgs | ldshRgs => exact loadRgs_next_pc h
  | stbtRgs | stshRgs => exact storeRgs_next_pc h
  | adsp => exact done_next_pc h (nextPc_setAreg s _ _)
  | mtsr rs k => exact done_next_pc h (nextPc_setSreg s k _)
  | stop =>
    cases h
    exact advancePc_pc s
  | _ => exact done_next_pc h

/-- A control transfer that answers a next state is not injected (R355). -/
theorem running_of_isTransfer {i : Instr} (ht : isTransfer i = true) (h : exec i s = .next t) : s.run = .running := by
  have hrefusal := refusalIn_exec i s
  rw [h, refusalIn_next, refusalOf_of_isTransfer ht] at hrefusal
  cases hrun : s.run with
  | running => rfl
  | stopped => simp [hrun] at hrefusal

end

/-- Settles O23: what is no control transfer ends sequentially, and a control transfer does not answer when injected. -/
theorem sequentialExecution : Obligations.SequentialExecution := by
  unfold Obligations.SequentialExecution
  intro i s t h hi
  cases ht : isTransfer i with
  | true =>
    have hrunning := running_of_isTransfer ht h
    exact ⟨fun _ hfalse => (nomatch hfalse), fun hstopped => (nomatch hrunning.symm.trans hstopped)⟩
  | false =>
    have hpc := exec_next_pc_of_not_isTransfer ht hi h
    exact ⟨fun hrunning _ => by rw [hpc, nextPc, hrunning], fun hstopped => by rw [hpc, nextPc, hstopped]⟩

/-! ## Branches -/

/-- A branch in the running state writes pc and nothing else (R291). -/
theorem branchIf_next {s : State} (hrun : s.run = .running) (taken : Bool) (f : BitVec 8) :
    ∃ t, branchIf taken f s = .next t ∧ t.pc = (if taken then branchTarget s.pc f else s.pc + 1) ∧
      WritesAtMost [] s t := by
  obtain ⟨t, hnext, hpc⟩ := branchIf_next_pc hrun taken f
  exact ⟨t, hnext, hpc, .of_branchIf hnext⟩

theorem condGe_eq (f : Flags) : condGe f = (f.n == f.o) := by
  rw [condGe_eq_not_condLo, condLo_eq, bne, Bool.not_not]

/-- Settles O51: each branch tests its condition on CC; the signed conditions are those on N and O of `condLo_eq` and
`condGe_eq`. -/
theorem branches : Obligations.Branches := by
  unfold Obligations.Branches
  intro f s hrun
  have hbranch {i : Instr} {taken b : Bool} (hi : exec i s = branchIf taken f s) (hb : taken = b) :
      ∃ t, exec i s = .next t ∧ t.pc = (if b then branchTarget s.pc f else s.pc + 1) ∧ Unchanged [] s t ∧
        SameMemory s t := by
    obtain ⟨t, hnext, hpc, hwrites⟩ := branchIf_next hrun taken f
    exact ⟨t, hi.trans hnext, hb ▸ hpc, hwrites.frame, hwrites.sameMemory⟩
  have hhi : condHi s.cc = !(s.cc.c || s.cc.z) := condHi_eq_not_condLs _
  have hle : condLe s.cc = (s.cc.z || s.cc.n != s.cc.o) := by rw [condLe_eq, condLo_eq]
  have hgt : condGt s.cc = (!s.cc.z && s.cc.n == s.cc.o) := by
    rw [condGt_eq_not_condLe, condLe_eq, Bool.not_or, ← condGe_eq_not_condLo, condGe_eq]
  simp only [List.forall_mem_cons, List.not_mem_nil, false_implies, implies_true, and_true]
  exact ⟨hbranch rfl rfl, hbranch rfl rfl, hbranch rfl rfl, hbranch rfl rfl, hbranch rfl rfl, hbranch rfl rfl,
    hbranch rfl rfl, hbranch rfl rfl, hbranch rfl rfl, hbranch rfl hhi, hbranch rfl (condLo_eq _),
    hbranch rfl (condGe_eq _), hbranch rfl hle, hbranch rfl hgt, hbranch (b := true) rfl rfl⟩

/-- Settles O53: `brlc` is a branch from the state in which LC has been counted down. -/
theorem loopCounterBranch : Obligations.LoopCounterBranch := by
  unfold Obligations.LoopCounterBranch
  intro f s hrun
  obtain ⟨t, hnext, hpc, hwrites⟩ := branchIf_next (s := { s with lc := s.lc - 1 }) hrun (s.lc - 1 != 0) f
  have hall := (WritesAtMost.setLc s (s.lc - 1)).trans hwrites
  refine ⟨t, hnext, ?_, ?_, hall.frame, hall.sameMemory⟩
  · rw [hwrites.frame.lc (by simp), BitVec.toNat_sub]
    exact congrArg (· % 65536) (Nat.add_comm ..)
  · have hzero : s.lc - 1 = 0 ↔ s.lc = 1 := sub_eq_zero
    simp only [hpc, bne_iff_ne, ne_eq, hzero, ite_not]

/-! ## Jumps, subroutines and the return from an interrupt -/

/-- Settles O54: each is a transfer to the state with the link, IAH and pc written, in the running state. -/
theorem jumpsAndSubroutines : Obligations.JumpsAndSubroutines := by
  unfold Obligations.JumpsAndSubroutines
  intro a s hrun
  have hjump {i : Instr} {u : State} (hi : exec i s = transfer s u) : exec i s = .next u :=
    hi.trans (transfer_next_iff.2 ⟨hrun, rfl⟩)
  have hta := WritesAtMost.setPc s s.ta
  have hia := (WritesAtMost.setIah s 0).trans (.setPc _ (s.iah ++ a))
  have hlinkTa := (WritesAtMost.setSa s (s.pc + 1)).trans (.setPc _ s.ta)
  have hlinkIa := ((WritesAtMost.setSa s (s.pc + 1)).trans (.setIah _ 0)).trans (.setPc _ (s.iah ++ a))
  have hsa := WritesAtMost.setPc s s.sa
  exact ⟨⟨_, hjump rfl, rfl, hta.frame, hta.sameMemory⟩, ⟨_, hjump rfl, rfl, rfl, hia.frame, hia.sameMemory⟩,
    ⟨_, hjump rfl, rfl, rfl, hlinkTa.frame, hlinkTa.sameMemory⟩,
    ⟨_, hjump rfl, rfl, rfl, rfl, hlinkIa.frame, hlinkIa.sameMemory⟩,
    ⟨_, hjump rfl, rfl, hsa.frame, hsa.sameMemory⟩⟩

/-- Settles O58: in the interrupt state of a running processor `rtir` is the return from the interrupt. -/
theorem returnFromInterrupt : Obligations.ReturnFromInterrupt := by
  unfold Obligations.ReturnFromInterrupt
  intro s hrun hir
  have hwrites : WritesAtMost [.cc, .iah, .ir] s s.returnFromInterrupt :=
    (WritesAtMost.returnFromInterrupt s).mono (by simp)
  exact ⟨_, execRtir_next_iff.2 ⟨hrun, hir, rfl⟩, rfl, rfl, rfl, rfl, hwrites.frame, hwrites.sameMemory⟩

/-! ## The flags of CS, IAH and the run state -/

/-- Settles O55: each writes its own flags or IAH and ends sequentially. -/
theorem controlFlags : Obligations.ControlFlags := by
  unfold Obligations.ControlFlags
  intro h s
  have hscie := (WritesAtMost.setSave s s.cs.ie).trans (.setIe _ false)
  have hie (b : Bool) := WritesAtMost.setIe s b
  have hsel (b : Bool) := WritesAtMost.setSel s b
  exact ⟨⟨_, rfl, rfl, (hie true).sequential⟩, ⟨_, rfl, rfl, (hie false).sequential⟩,
    ⟨_, rfl, rfl, (hie s.cs.save).sequential⟩, ⟨_, rfl, rfl, rfl, hscie.sequential⟩,
    ⟨_, rfl, rfl, (hsel true).sequential⟩, ⟨_, rfl, rfl, (hsel false).sequential⟩,
    ⟨_, rfl, rfl, (WritesAtMost.setIah s h).sequential⟩⟩

/-- An injected instruction does not advance pc (R354), so its end changes nothing. -/
theorem State.advancePc_of_stopped {s : State} (h : s.run = .stopped) : s.advancePc = s :=
  calc s.advancePc
    _ = { s with pc := s.advancePc.pc } := rfl
    _ = s := by rw [State.advancePc_pc_stopped s h]

/-- Settles O57: `stop` ends sequentially and then writes the run state, which a stopped processor has already. -/
theorem stop : Obligations.Stop := by
  unfold Obligations.Stop
  intro s
  have hwrites := (WritesAtMost.advancePc s).trans (.setRun _ .stopped)
  refine ⟨_, rfl, rfl, advancePc_pc s, hwrites.frame, hwrites.sameMemory, fun hstopped => ?_⟩
  rw [State.advancePc_of_stopped hstopped, ← hstopped]

end Sys2Proof.Machine
end

section
/-! The events of a boundary: the stops by the debug module (O9), interrupts (O10, O11, O59), reset (O12), the stopped
processor (O14) and injected words (O15). Each event has one rule for the state that the step answers and one for what
that state writes; the statements are put together from these. -/

namespace Sys2Proof.Machine

/-! ## What the events write -/

namespace WritesAtMost

theorem nextBoundary (s : State) (iack : Bool) : WritesAtMost [.host] s (s.nextBoundary iack) :=
  ⟨.of_same, rfl, rfl⟩

theorem noteExecuted (s : State) (a : Word) : WritesAtMost [.lastPc] s (s.noteExecuted a) :=
  ⟨.of_same, rfl, rfl⟩

/-- The entry sequence: IRA, CCS, IAHS, IAH, CS.IR and pc (R336). -/
theorem takeInterrupt (s : State) (n : BitVec 4) : WritesAtMost [.ira, .ccs, .iahs, .iah, .ir] s (s.takeInterrupt n) :=
  ⟨.of_same, rfl, rfl⟩

end WritesAtMost

/-! ## The acknowledge condition and the vector table -/

theorem State.acknowledges_iff {s : State} :
    s.acknowledges = true ↔ s.run = .running ∧ s.pins.irq = true ∧ s.cs.ie = true ∧ s.cs.ir = false := by
  simp [State.acknowledges, and_assoc]

/-- A processor in the interrupt state acknowledges no request (R340). -/
theorem State.acknowledges_of_interruptState {s : State} (h : s.cs.ir = true) : s.acknowledges = false := by
  simp [State.acknowledges, h]

/-- The bits of IVTP stand above five zeros (R86), so that they count entries of 32 bytes. -/
theorem vectorAddress_eq_ofNat (ivtp : BitVec 11) (n : BitVec 4) :
    vectorAddress ivtp n = BitVec.ofNat 16 (32 * ivtp.toNat + 2 * n.toNat) := by
  have htable : (ivtp ++ 0#5).toNat = 32 * ivtp.toNat := by
    rw [BitVec.toNat_append, BitVec.toNat_zero, Nat.or_zero, Nat.shiftLeft_eq, Nat.mul_comm]
  apply BitVec.eq_of_toNat_eq
  simp [vectorAddress, htable]

/-- An entry of the vector table begins at an even address, where a short is not misaligned (R76, R338). -/
theorem toNat_vectorAddress_even (ivtp : BitVec 11) (n : BitVec 4) : (vectorAddress ivtp n).toNat % 2 = 0 := by
  rw [vectorAddress_eq_ofNat, BitVec.toNat_ofNat]
  omega

/-- The entry that an interrupt reads is the two bytes at the address of the vector, low byte first (R338). -/
theorem State.readShort_vectorAddress (s : State) (ivtp : BitVec 11) (n : BitVec 4) :
    s.readShort (vectorAddress ivtp n) =
      s.readByte (vectorAddress ivtp n + 1) ++ s.readByte (vectorAddress ivtp n) :=
  State.load_short_of_shortBase (s.shortBase_of_even (toNat_vectorAddress_even ivtp n))

/-! ## The step at each event -/

/-- The word of `stop` means `stop` under every choice of the encoding parameters (R120). -/
theorem decode_stopOpcode (e : Encoding) : decode e stopOpcode = .ok .stop := by
  have hword : encode e .stop = stopOpcode := (Groups.toWord_ofCode4 0b0100#4 _).trans (by decide)
  exact hword ▸ decodeOfEncode e .stop rfl

theorem step_of_reset {s w : State} (hw : s.hostWrites = w) (hreset : w.pins.reset = true) :
    step s = .next (w.takeReset.nextBoundary false) := by
  simp [step, hw, boundary, hreset]

section
variable {s w : State} (hw : s.hostWrites = w) (hreset : w.pins.reset = false)
include hw hreset

theorem step_of_running (hrun : w.run = .running) : step s = runningBoundary w := by
  simp [step, hw, boundary, hreset, hrun]

theorem step_of_stopped (hrun : w.run = .stopped) : step s = stoppedBoundary w := by
  simp [step, hw, boundary, hreset, hrun]

theorem step_of_stopRequest (hrun : w.run = .running) (hstrq : w.pins.strq = true) :
    step s = .next ({ w with run := .stopped }.nextBoundary false) := by
  simp [step_of_running hw hreset hrun, runningBoundary, hstrq]

theorem step_of_acknowledge (hrun : w.run = .running) (hstrq : w.pins.strq = false) (hack : w.acknowledges = true) :
    step s = .next ((w.takeInterrupt w.pins.irn).nextBoundary true) := by
  simp [step_of_running hw hreset hrun, runningBoundary, hstrq, hack]

/-- A breakpoint register puts `stop` in the place of the fetched word (R360), so the step runs `stop` (R320). -/
theorem step_of_breakpoint (hrun : w.run = .running) (hstrq : w.pins.strq = false) (hack : w.acknowledges = false)
    (hbreak : w.pins.breakpoint = true) :
    step s = .next (({ w.advancePc with run := .stopped }.noteExecuted w.pc).nextBoundary false) := by
  have hword : runWord stopOpcode w = exec .stop w := runWord_of_decode (decode_stopOpcode _)
  simp only [step_of_running hw hreset hrun, runningBoundary, hstrq, hack, State.fetched, hbreak, hword, if_true,
    Bool.false_eq_true, if_false]
  rfl

theorem step_of_wait (hrun : w.run = .stopped) (hdebug : w.pins.debug = .wait) :
    step s = .next (w.nextBoundary false) := by
  simp [step_of_stopped hw hreset hrun, stoppedBoundary, hdebug]

theorem step_of_resume (hrun : w.run = .stopped) (hdebug : w.pins.debug = .resume) :
    step s = .next ({ w with run := .running }.nextBoundary false) := by
  simp [step_of_stopped hw hreset hrun, stoppedBoundary, hdebug]

theorem step_of_inject (hrun : w.run = .stopped) {op : Word} (hdebug : w.pins.debug = .inject op) :
    step s = mapNext (fun t => t.nextBoundary false) (runWord op w) := by
  simp [step_of_stopped hw hreset hrun, stoppedBoundary, hdebug]

end

/-! ## The debug module -/

/-- Settles O9: the stop request writes the run state alone, and a breakpoint runs `stop` in the place of the fetched
word. -/
theorem debugModuleStops : Obligations.DebugModuleStops := by
  unfold Obligations.DebugModuleStops
  intro s w hw hrun hreset
  constructor
  · intro hstrq
    have hwrites := (WritesAtMost.setRun w .stopped).trans (.nextBoundary _ false)
    exact ⟨_, step_of_stopRequest hw hreset hrun hstrq, rfl, rfl, rfl, hwrites.frame, hwrites.sameMemory⟩
  · intro hstrq hack hbreak
    have hstop := (WritesAtMost.advancePc w).trans (.setRun _ .stopped)
    have hwrites := (hstop.trans (.noteExecuted _ w.pc)).trans (.nextBoundary _ false)
    exact ⟨_, step_of_breakpoint hw hreset hrun hstrq hack hbreak, rfl, w.advancePc_pc_running hrun, rfl, rfl,
      hwrites.frame, hwrites.sameMemory⟩

/-- Settles O14: `wait` writes the host's lines alone, and a resume also the run state. -/
theorem stoppedWaitsAndResumes : Obligations.StoppedWaitsAndResumes := by
  unfold Obligations.StoppedWaitsAndResumes
  intro s w hw hrun hreset
  constructor
  · intro hwait
    have hwrites := WritesAtMost.nextBoundary w false
    exact ⟨_, step_of_wait hw hreset hrun hwait, rfl, rfl, hwrites.frame, hwrites.sameMemory⟩
  · intro hresume
    have hwrites := (WritesAtMost.setRun w .running).trans (.nextBoundary _ false)
    exact ⟨_, step_of_resume hw hreset hrun hresume, rfl, rfl, rfl, hwrites.frame, hwrites.sameMemory⟩

/-- Settles O15: the step is the run of the injected word (`step_of_inject`), by what the decoder and `exec` answer for
it. -/
theorem injectionRuns : Obligations.InjectionRuns := by
  unfold Obligations.InjectionRuns
  intro s w op hw hrun hreset hinject
  have hstep {o} (ho : runWord op w = o) : step s = mapNext (fun t => t.nextBoundary false) o :=
    ho ▸ step_of_inject hw hreset hrun hinject
  exact ⟨fun i t hdecode hexec => hstep ((runWord_of_decode hdecode).trans hexec),
    fun i r hdecode hexec => hstep ((runWord_of_decode hdecode).trans hexec),
    fun hdecode => hstep (runWord_of_reject hdecode), fun hdecode => hstep (runWord_of_reject hdecode)⟩

/-! ## Reset -/

/-- Settles O12: a reset is the event of its boundary whatever else the host asserts, and `State.takeReset` writes out
the values that R371 and R372 define. -/
theorem resetEvent : Obligations.ResetEvent := by
  unfold Obligations.ResetEvent
  intro s w hw hreset
  exact ⟨_, step_of_reset hw hreset, rfl, rfl, rfl, rfl, rfl, rfl, rfl, rfl, rfl, rfl, rfl, .of_eq rfl rfl rfl⟩

/-! ## Interrupts -/

/-- Settles O10: the entry sequence writes out what it saves, and pc is the entry that the vector names. -/
theorem interruptEntry : Obligations.InterruptEntry := by
  unfold Obligations.InterruptEntry
  rintro s w base hw hrun hreset hstrq hirq hie hir rfl
  have hack : w.acknowledges = true := State.acknowledges_iff.2 ⟨hrun, hirq, hie, hir⟩
  have hwrites := (WritesAtMost.takeInterrupt w w.pins.irn).trans (.nextBoundary _ true)
  rw [← vectorAddress_eq_ofNat]
  exact ⟨_, step_of_acknowledge hw hreset hrun hstrq hack, rfl, rfl, rfl, rfl, rfl, rfl,
    w.readShort_vectorAddress _ _, hwrites.frame, hwrites.sameMemory⟩

/-- IACK is asserted in the step that takes an interrupt, and in no other (R336). -/
theorem step_iack_iff {s u : State} (h : step s = .next u) :
    u.iack = true ↔ s.hostWrites.pins.reset = false ∧ s.hostWrites.pins.strq = false ∧
      s.hostWrites.acknowledges = true := by
  rcases step_next_cases h with ⟨hreset, rfl⟩ | ⟨-, -, hstrq, rfl⟩ | ⟨hreset, -, hstrq, hack, rfl⟩ |
    ⟨-, -, -, hack, i, t, -, -, rfl⟩ | ⟨-, hstopped, -, rfl⟩ | ⟨-, hstopped, op, i, t, -, -, -, rfl⟩ |
    ⟨-, hstopped, -, rfl⟩
  · simp [hreset] -- reset
  · simp [hstrq] -- stop request
  · simp [hreset, hstrq, hack] -- interrupt entry
  · simp [hack] -- fetched instruction
  · simp [State.acknowledges_iff, hstopped] -- wait
  · simp [State.acknowledges_iff, hstopped] -- injected instruction
  · simp [State.acknowledges_iff, hstopped] -- resume

/-- Settles O11: IACK is asserted exactly at the acknowledge condition (`step_iack_iff`), of which the host's writes to
memory change nothing. -/
theorem acknowledgeExactly : Obligations.AcknowledgeExactly := by
  unfold Obligations.AcknowledgeExactly
  intro s u h
  have hw : Unchanged [] s s.hostWrites := .hostWrites s
  have hpins : s.hostWrites.pins = s.pins := (hw.host (by simp)).2.1
  rw [step_iack_iff h, State.acknowledges_iff, hpins, hw.run (by simp), hw.ie (by simp), hw.ir (by simp)]

/-- Settles O59: `rtir` (O58) gives back what the entry sequence saved, and neither writes CS.IE or CS.IS. -/
theorem interruptAndReturn : Obligations.InterruptAndReturn := by
  unfold Obligations.InterruptAndReturn
  intro s w hw hrun hreset hstrq hack
  refine ⟨_, step_of_acknowledge hw hreset hrun hstrq hack, State.acknowledges_of_interruptState rfl, ?_⟩
  intro v hvrun hir hira hccs hiahs hie hsave
  obtain ⟨t, hnext, hpc, hcc, hiah, hclear, hframe, -⟩ := returnFromInterrupt v hvrun hir
  exact ⟨t, hnext, hpc.trans hira, hcc.trans hccs, hiah.trans hiahs, hclear, (hframe.ie (by simp)).trans hie,
    (hframe.save (by simp)).trans hsave⟩

end Sys2Proof.Machine
end
